-- ==== Sys2Proof/Word.lean ====
section
/-! DEFINITION. The widths of the core (R11): a register is 32 bits, a byte 8 bits. -/

namespace Sys2Proof

/-- A register value (R11, R12). -/
abbrev Word := BitVec 32

/-- One byte of BUF or of a byte sequence (R11, R14). -/
abbrev Byte := BitVec 8

end Sys2Proof
end

