-- ==== Sys2Proof/Syntax.lean ====
section
/-! DEFINITION. The nine commands of R83, one constructor per row of the opcode table. A command has no operand field
(R81): every operand is a register (R82). -/

namespace Sys2Proof

/-- A legal command word's meaning-bearing content (R83). -/
inductive Instr where
  /-- NOP, R140 -/
  | nop
  /-- TC_LOAD, R130 -/
  | tcLoad
  /-- TC_LOAD_STR, R131 -/
  | tcLoadStr
  /-- CHUNK_NEW, R143 -/
  | chunkNew
  /-- CHUNK_ENCODE, R145 -/
  | chunkEncode
  /-- CHUNK_DECODE, R150 -/
  | chunkDecode
  /-- CHUNK_TEXT, R161 -/
  | chunkText
  /-- CRC_INIT, R104 -/
  | crcInit
  /-- CRC_UPDATE, R105 -/
  | crcUpdate
  deriving DecidableEq, Repr

end Sys2Proof
end

