-- ==== Sys2Proof/WellFormed.lean ====
section
/-! DEFINITION. Well-formedness. An `Instr` carries no operand, so every one of them is well formed; what can be ill
formed on this core is the 32-bit command word (R84, R85). -/

namespace Sys2Proof

/-- A command word is legal iff its MBZ field is zero and its OP is at most 0x08 (R84). -/
def legalWord (v : Word) : Bool := v.extractLsb' 8 24 == 0 && decide (v.extractLsb' 0 8 ≤ 8)

/-- No command has an operand field whose value could be out of range (R81, R82). -/
def Instr.wellFormed : Instr → Bool
  | .nop => true
  | .tcLoad => true
  | .tcLoadStr => true
  | .chunkNew => true
  | .chunkEncode => true
  | .chunkDecode => true
  | .chunkText => true
  | .crcInit => true
  | .crcUpdate => true

end Sys2Proof
end

