-- ==== Sys2Proof/Decode.lean ====
section
/-! DEFINITION. The command word's decoder, total on every 32-bit word and rejecting by name, and its encoder (R81, R83,
R84, R85). A command is one 32-bit value written to CMD (R80): it has no byte order and no second word. -/

namespace Sys2Proof

/-- The OP field of a command word, bits [7:0] (R81). -/
def opField (v : Word) : BitVec 8 := v.extractLsb' 0 8

/-- The MBZ field of a command word, bits [31:8] (R81). -/
def mbzField (v : Word) : BitVec 24 := v.extractLsb' 8 24

/-- Why a command word is illegal (R84, R85). -/
inductive DecodeError where
  /-- bits [31:8] are not zero -/
  | mustBeZeroBitsSet
  /-- the OP is in the reserved space 0x09 to 0xFF -/
  | reservedOpcode
  deriving DecidableEq, Repr

/-- The opcode map of R83, read from OP to command. -/
def ofOpcode (op : BitVec 8) : Except DecodeError Instr :=
  match op.toNat with
  | 0x00 => .ok .nop
  | 0x01 => .ok .tcLoad
  | 0x02 => .ok .tcLoadStr
  | 0x03 => .ok .chunkNew
  | 0x04 => .ok .chunkEncode
  | 0x05 => .ok .chunkDecode
  | 0x06 => .ok .chunkText
  | 0x07 => .ok .crcInit
  | 0x08 => .ok .crcUpdate
  | _ => .error .reservedOpcode

/-- The check of R84, then the dispatch on OP. -/
def decode (v : Word) : Except DecodeError Instr :=
  if mbzField v ≠ 0 then .error .mustBeZeroBitsSet else ofOpcode (opField v)

/-- The opcode map of R83, read from command to OP. -/
def opcode : Instr → BitVec 8
  | .nop => 0x00
  | .tcLoad => 0x01
  | .tcLoadStr => 0x02
  | .chunkNew => 0x03
  | .chunkEncode => 0x04
  | .chunkDecode => 0x05
  | .chunkText => 0x06
  | .crcInit => 0x07
  | .crcUpdate => 0x08

/-- The command word of a command: OP in bits [7:0], zero above (R81). -/
def encode (i : Instr) : Word := (0 : BitVec 24) ++ opcode i

/-- The command that the decoder reads from a table row's bits. A word that does not fit the row's width, or a row wider
than the one 32-bit word that every command is (R80), is refused. -/
def decodeTableWord (nbits w : Nat) : Option Instr :=
  if nbits ≤ 32 ∧ w < 2 ^ nbits then
    match decode (BitVec.ofNat 32 w) with
    | .ok i => some i
    | .error _ => none
  else none

end Sys2Proof
end

