-- ==== Sys2Proof/Config.lean ====
section
/-! DEFINITION. What the spec leaves to an implementation (BUF_SIZE, R9) and what it leaves free (the bytes of BUF
after reset, R64). Neither constant has a body: no proof can learn its value. -/

namespace Sys2Proof

/-- How many bytes BUF has beyond the 12 of the smallest record: R9 bounds BUF_SIZE by 12 and 2^32 - 1.
Assumption log 1. -/
opaque Config.bufSizeBeyondTwelve : Fin 4294967284

/-- BUF_SIZE of the machine that `State.reset` describes (R9: OPEN). The state carries the parameter in `bufSize`, so
every definition of the model takes it from there and holds for every size. -/
def Config.bufSize : Nat := Config.bufSizeBeyondTwelve.val + 12

/-- R9's constraint on the parameter: 12 <= BUF_SIZE <= 2^32 - 1. -/
abbrev Config.legalBufSize (n : Nat) : Prop := 12 ≤ n ∧ n ≤ 2 ^ 32 - 1

theorem Config.bufSize_legal : Config.legalBufSize Config.bufSize := by
  have := Config.bufSizeBeyondTwelve.isLt
  unfold Config.legalBufSize Config.bufSize
  omega

/-- The byte that address `a` of BUF holds after the reset numbered `draw`, until it is written (R64: "A model draws
each byte freely at reset, under no law"). Assumption log 2. -/
opaque Config.bufDraw (draw a : Nat) : Byte

end Sys2Proof
end

