-- ==== Sys2Proof/Machine/State.lean ====
section
/-! DEFINITION. The state of the core (R20), the host's side of the interface (R7, R21, R61, R62, R200), and the reset
state (R200). -/

namespace Sys2Proof.Machine

/-- One host action (R7, R21, R61, R62, R200). Offsets and buffer addresses are plain numbers: any number may be
presented, and the rules say what an unmapped offset or an address past BUF does. -/
inductive HostAction where
  /-- RegRead(off), R22 -/
  | regRead (off : Nat)
  /-- RegWrite(off, v), R23 -/
  | regWrite (off : Nat) (v : Word)
  /-- BufRead(a), R61 -/
  | bufRead (a : Nat)
  /-- BufWrite(a, b), R62 -/
  | bufWrite (a : Nat) (b : Byte)
  /-- Reset, R200 -/
  | reset
  deriving DecidableEq, Repr

/-- What a read action returned to the host (R22, R61). -/
inductive HostAnswer where
  /-- no read has been made yet -/
  | nothing
  /-- the 32-bit value of a RegRead -/
  | word (v : Word)
  /-- the byte of a BufRead -/
  | byte (b : Byte)
  deriving DecidableEq, Repr

/-- The bytes of BUF written since reset, by rising address. An address with no entry holds its free draw of R64.
Assumption log 2. -/
abbrev Memory := List Host.Cell

/-- The architectural state of R20, the implementation parameter of R9, and the model's own fields (`draw`, `host`,
`answer`: assumption log 2, 3 and 4). -/
structure State where
  /-- SRC, R28 -/
  src : Word
  /-- SLEN, R29 -/
  slen : Word
  /-- DST, R30 -/
  dst : Word
  /-- TYPE_IN, R31 -/
  typeIn : Word
  /-- TYPE, R32 -/
  typeReg : Word
  /-- TC_VALID, R42 -/
  tcValid : Bool
  /-- CH_TYPE, R34 -/
  chType : Word
  /-- CH_ADDR, R35 -/
  chAddr : Word
  /-- CH_LEN, R36 -/
  chLen : Word
  /-- CH_CRC, R37 -/
  chCrc : Word
  /-- CH_VALID, R43 -/
  chValid : Bool
  /-- OUT_LEN, R39 -/
  outLen : Word
  /-- CRC_STATE, R40 -/
  crcState : Word
  /-- ERR, the 4-bit field STATUS[3:0], R27 and R180 -/
  err : BitVec 4
  /-- ERR_IDX, the 2-bit field STATUS[5:4], R27 and R180 -/
  errIdx : BitVec 2
  /-- BUF, R60: the bytes written since reset -/
  buf : Memory
  /-- BUF_SIZE, the parameter of R9; no action changes it -/
  bufSize : Nat
  /-- the model's own: how many resets came before this one, which picks the free draws of BUF (R64) -/
  draw : Nat
  /-- the model's own: the host's actions still to come, the next one first (R7) -/
  host : List HostAction
  /-- the model's own: what the host's last read returned (R22, R61) -/
  answer : HostAnswer
  deriving DecidableEq, Repr

/-- Why the machine would stop with a fault. It has no constructor: "There is no trap, hang, stuck state or refusal
inside the core" (R8), and an error is a value of ERR, not a fault (R184). -/
inductive Fault where
  deriving DecidableEq, Repr

/-- Why an instruction has no meaning. -/
inductive Refusal where
  /-- Raised by an arm of `exec` whose command is not modelled yet; no arm raises it now. Safe: nothing is claimed of a
  command that has no meaning. -/
  | notModelled (mnemonic : String)
  deriving DecidableEq, Repr

/-- What a host action or a command ends in. -/
abbrev Result := Host.Outcome State Fault Refusal

/-- The state right after a reset of a core with `bufSize` bytes of BUF (R200; R9: "a model takes it as an argument"),
whose BUF bytes are the free draws numbered `draw` (R64). No host action is waiting. -/
def State.atReset (bufSize draw : Nat) : State where
  src := 0
  slen := 0
  dst := 0
  typeIn := 0
  typeReg := 0
  tcValid := false
  chType := 0
  chAddr := 0
  chLen := 0
  chCrc := 0
  chValid := false
  outLen := 0
  crcState := 0xFFFFFFFF
  err := 0
  errIdx := 0
  buf := []
  bufSize := bufSize
  draw := draw
  host := []
  answer := .nothing

/-- The machine right after reset (R200, R201): "it waits for host actions, and it has no program of its own". -/
def State.reset : State := State.atReset Config.bufSize 0

end Sys2Proof.Machine
end

