-- ==== Sys2Proof/Machine/Ops.lean ====
section
/-! DEFINITION. The named operations over BUF and the registers that the commands share: byte order (R15, R16), BUF reads
and writes with payload invalidation (R63 to R67), and the two outcomes of a command (R181), of which the error is all
that the core has in place of an exception (R184). -/

namespace Sys2Proof.Machine

/-! ### Byte order -/

/-- `be32` of a 4-byte sequence (R15): byte 0 is the most significant. The rules use it on 4 bytes only. -/
def be32 : List Byte → Word
  | [b0, b1, b2, b3] => b0 ++ b1 ++ b2 ++ b3
  | _ => 0

/-- `to_be32` (R15). -/
def toBe32 (v : Word) : List Byte :=
  [v.extractLsb' 24 8, v.extractLsb' 16 8, v.extractLsb' 8 8, v.extractLsb' 0 8]

/-- `bytes_of` of a packed type code (R16). -/
def bytesOf (t : Word) : List Byte := toBe32 t

/-- `pack` of 4 type-code bytes (R16). -/
def pack (s : List Byte) : Word := be32 s

/-! ### BUF as a list of written bytes -/

/-- Every address of the list is above `a`, and the addresses rise strictly. -/
def Memory.above (a : Nat) : Memory → Bool
  | [] => true
  | (x, _) :: m => decide (a < x) && Memory.above x m

/-- The one canonical form of the written bytes: the addresses rise strictly. What an unlisted address holds is "not
written since reset", which no entry can equal. Assumption log 2. -/
def Memory.wf : Memory → Bool
  | [] => true
  | (x, _) :: m => Memory.above x m

/-- The byte written last at `a` since reset, if there was one. -/
def Memory.find (a : Nat) : Memory → Option Byte
  | [] => none
  | (x, b) :: m => if x = a then some b else Memory.find a m

/-- Writes byte `b` at `a`, in its place by address. -/
def Memory.write (a : Nat) (b : Byte) : Memory → Memory
  | [] => [(a, b)]
  | (x, c) :: m =>
    if a < x then (a, b) :: (x, c) :: m
    else if a = x then (a, b) :: m
    else (x, c) :: Memory.write a b m

/-- Writes the bytes of a sequence at `a`, `a + 1`, ... (R66). -/
def Memory.writeAll (a : Nat) : List Byte → Memory → Memory
  | [], m => m
  | b :: s, m => Memory.writeAll (a + 1) s (Memory.write a b m)

/-! ### BUF as the commands and the host see it -/

/-- BUF[a] (R60): the byte written there last, or else the free draw of the last reset (R64). -/
def State.byteAt (s : State) (a : Nat) : Byte :=
  match Memory.find a s.buf with
  | some b => b
  | none => Config.bufDraw s.draw a

/-- `in_bounds(a, n)`, with the sum in unbounded arithmetic (R63). -/
def State.inBounds (s : State) (a n : Nat) : Bool := decide (a + n ≤ s.bufSize)

/-- `MemRead(a, n)` (R65). -/
def State.memRead (s : State) (a : Nat) : Nat → List Byte
  | 0 => []
  | n + 1 => s.byteAt a :: State.memRead s (a + 1) n

/-- `overlaps` of R67: the ranges [a, a+n) and [c, c+m) share an address. -/
def overlaps (a n c m : Nat) : Bool := decide (1 ≤ n ∧ 1 ≤ m ∧ a < c + m ∧ c < a + n)

/-- The BUF half of `MemWrite` (R66). -/
def State.storeBytes (s : State) (a : Nat) (bs : List Byte) : State :=
  { s with buf := Memory.writeAll a bs s.buf }

/-- Payload invalidation after a write to [a, a+n) (R67). -/
def State.invalidate (s : State) (a n : Nat) : State :=
  { s with chValid := s.chValid && !overlaps a n s.chAddr.toNat s.chLen.toNat }

/-- `MemWrite(a, len(bs), bs)` (R66, R67). -/
def State.memWrite (s : State) (a : Nat) (bs : List Byte) : State :=
  (s.storeBytes a bs).invalidate a bs.length

/-! ### The outcomes of a command -/

/-- The conditions a command can report (R180). Codes 7 and 12 to 15 are reserved and never produced. -/
inductive ErrorKind where
  | badTypeByte
  | wrongTypeLength
  | incomplete
  | invalidLength
  | checksumMismatch
  | notUtf8
  | illegalCommand
  | noType
  | noChunk
  | outOfBounds
  deriving DecidableEq, Repr

/-- The error code of a condition, the value of ERR (R180). -/
def ErrorKind.code : ErrorKind → BitVec 4
  | .badTypeByte => 1
  | .wrongTypeLength => 2
  | .incomplete => 3
  | .invalidLength => 4
  | .checksumMismatch => 5
  | .notUtf8 => 6
  | .illegalCommand => 8
  | .noType => 9
  | .noChunk => 10
  | .outOfBounds => 11

/-- `raise Error(code, idx)` (R181): the whole effect of a command that fails. The core has no trap entry (R184) and no
return from one (R185); this takes their place. -/
def State.raiseAt (s : State) (e : ErrorKind) (idx : BitVec 2) : State :=
  { s with err := e.code, errIdx := idx }

/-- `raise Error(code)`, which means `raise Error(code, 0)` (R181). -/
def State.raise (s : State) (e : ErrorKind) : State := s.raiseAt e 0

/-- `ERR <- 0; ERR_IDX <- 0`, the end of a command that succeeds (R181). -/
def State.succeed (s : State) : State := { s with err := 0, errIdx := 0 }

/-! ### The registers that a successful command writes -/

/-- `TYPE <- t; TC_VALID <- 1` (R130, R131). -/
def State.loadType (s : State) (t : Word) : State := { s with typeReg := t, tcValid := true }

/-- `CH_TYPE <- t; CH_ADDR <- a; CH_LEN <- n; CH_CRC <- c; CH_VALID <- 1` (R143, R150). -/
def State.bindChunk (s : State) (t a n c : Word) : State :=
  { s with chType := t, chAddr := a, chLen := n, chCrc := c, chValid := true }

/-- `CRC_STATE <- r` (R104, R105). -/
def State.setCrcState (s : State) (r : Word) : State := { s with crcState := r }

/-- `OUT_LEN <- n` (R145). -/
def State.setOutLen (s : State) (n : Word) : State := { s with outLen := n }

/-- The host's Reset action on the core (R200). The host's own side, its actions to come and its last answer, is not the
core's and stays. -/
def State.resetCore (s : State) : State :=
  { State.atReset s.bufSize (s.draw + 1) with host := s.host, answer := s.answer }

end Sys2Proof.Machine
end

