-- ==== Sys2Proof/Machine/Operands.lean ====
section
/-! DEFINITION. Operand assembly (R82): every operand comes from a register, used as an unsigned number in unbounded
arithmetic (R12), and from the BUF range it names. -/

namespace Sys2Proof.Machine

/-- SRC as an address (R28, R82). -/
def State.srcAddr (s : State) : Nat := s.src.toNat

/-- SLEN as a byte count (R29, R82). -/
def State.srcLen (s : State) : Nat := s.slen.toNat

/-- DST as an address (R30, R82). -/
def State.dstAddr (s : State) : Nat := s.dst.toNat

/-- CH_ADDR as an address (R35, R82). -/
def State.payloadAddr (s : State) : Nat := s.chAddr.toNat

/-- CH_LEN as a byte count (R36, R82). -/
def State.payloadLen (s : State) : Nat := s.chLen.toNat

/-- The bounds check of a command's source range (R63). -/
def State.sourceInBounds (s : State) : Bool := s.inBounds s.srcAddr s.srcLen

/-- The bytes of the source range, `MemRead(SRC, SLEN)`. -/
def State.source (s : State) : List Byte := s.memRead s.srcAddr s.srcLen

/-- The current chunk's payload, `MemRead(CH_ADDR, CH_LEN)` (R35, R142). -/
def State.payload (s : State) : List Byte := s.memRead s.payloadAddr s.payloadLen

/-- The size of the current chunk's record, 12 + CH_LEN (R89, R145). -/
def State.recordLen (s : State) : Nat := 12 + s.payloadLen

end Sys2Proof.Machine
end

