-- ==== Sys2Proof/Machine/Crc.lean ====
section
/-! DEFINITION. CRC-32 in its ISO-HDLC variant (R100 to R102) and the streaming generator's commands (R104, R105). -/

namespace Sys2Proof.Machine

/-- The generator polynomial in reflected form (R100). -/
def crcPolynomial : Word := 0xEDB88320

/-- The initial register value (R100). -/
def crcInitial : Word := 0xFFFFFFFF

/-- The final XOR (R100). -/
def crcFinalXor : Word := 0xFFFFFFFF

/-- One of the eight rounds of the byte step (R101). -/
def crcRound (r : Word) : Word := if r.getLsbD 0 then (r >>> 1) ^^^ crcPolynomial else r >>> 1

/-- `n` rounds. -/
def crcRounds : Nat → Word → Word
  | 0, r => r
  | n + 1, r => crcRounds n (crcRound r)

/-- `crc_step(r, b)` (R101). -/
def crcStep (r : Word) (b : Byte) : Word := crcRounds 8 (r ^^^ b.zeroExtend 32)

/-- `fold(s, r)` (R102). -/
def crcFold : List Byte → Word → Word
  | [], r => r
  | b :: s, r => crcFold s (crcStep r b)

/-- `crc32(s)` (R102). -/
def crc32 (s : List Byte) : Word := crcFold s crcInitial ^^^ crcFinalXor

/-- CRC_INIT (R104). -/
def execCrcInit (s : State) : Result := .next (s.setCrcState crcInitial).succeed

/-- CRC_UPDATE (R105). -/
def execCrcUpdate (s : State) : Result :=
  if !s.sourceInBounds then .next (s.raise .outOfBounds)
  else .next (s.setCrcState (crcFold s.source s.crcState)).succeed

end Sys2Proof.Machine
end

