-- ==== Sys2Proof/Machine/TypeCode.lean ====
section
/-! DEFINITION. The ASCII type-code validator (R120, R121) and its two commands (R130, R131). -/

namespace Sys2Proof.Machine

/-- `is_letter(b)` (R120). -/
def isLetter (b : Byte) : Bool := decide (0x41 ≤ b ∧ b ≤ 0x5A ∨ 0x61 ≤ b ∧ b ≤ 0x7A)

/-- The scan of R121 from index `k`: the index of the first byte that is no letter, if there is one. -/
def firstNonLetter (k : BitVec 2) : List Byte → Option (BitVec 2)
  | [] => none
  | b :: s => if isLetter b then firstNonLetter (k + 1) s else some k

/-- `validate(s)` (R121): `none` is OK, `some k` is BAD_TYPE_BYTE(k). -/
def validate (s : List Byte) : Option (BitVec 2) := firstNonLetter 0 s

/-- TC_LOAD (R130). -/
def execTcLoad (s : State) : Result :=
  match validate (bytesOf s.typeIn) with
  | some k => .next (s.raiseAt .badTypeByte k)
  | none => .next (s.loadType s.typeIn).succeed

/-- TC_LOAD_STR (R131). -/
def execTcLoadStr (s : State) : Result :=
  if !s.sourceInBounds then .next (s.raise .outOfBounds)
  else if s.srcLen ≠ 4 then .next (s.raise .wrongTypeLength)
  else
    let t := s.memRead s.srcAddr 4
    match validate t with
    | some k => .next (s.raiseAt .badTypeByte k)
    | none => .next (s.loadType (pack t)).succeed

end Sys2Proof.Machine
end

