-- ==== Sys2Proof/Machine/Utf8.lean ====
section
/-! DEFINITION. Strict UTF-8 well-formedness (R160). -/

namespace Sys2Proof.Machine

/-- An inclusive range of byte values. -/
abbrev ByteRange := Byte × Byte

/-- The byte lies in the range. -/
def inRange (b : Byte) (r : ByteRange) : Bool := decide (r.1 ≤ b ∧ b ≤ r.2)

/-- The table of R160, row by row: the range of byte 1, then the ranges of the bytes after it. -/
def utf8Rows : List (ByteRange × List ByteRange) :=
  [ ((0x00, 0x7F), []),
    ((0xC2, 0xDF), [(0x80, 0xBF)]),
    ((0xE0, 0xE0), [(0xA0, 0xBF), (0x80, 0xBF)]),
    ((0xE1, 0xEC), [(0x80, 0xBF), (0x80, 0xBF)]),
    ((0xED, 0xED), [(0x80, 0x9F), (0x80, 0xBF)]),
    ((0xEE, 0xEF), [(0x80, 0xBF), (0x80, 0xBF)]),
    ((0xF0, 0xF0), [(0x90, 0xBF), (0x80, 0xBF), (0x80, 0xBF)]),
    ((0xF1, 0xF3), [(0x80, 0xBF), (0x80, 0xBF), (0x80, 0xBF)]),
    ((0xF4, 0xF4), [(0x80, 0x8F), (0x80, 0xBF), (0x80, 0xBF)]) ]

/-- The ranges that the bytes after lead byte `b` must lie in; `none` for a byte that starts no row. -/
def utf8Tail (b : Byte) : Option (List ByteRange) :=
  (utf8Rows.find? fun row => inRange b row.1).map fun row => row.2

/-- The scan of a sequence, with the ranges still owed by the code-unit sequence it is inside. -/
def utf8Scan : List ByteRange → List Byte → Bool
  | [], [] => true
  | _ :: _, [] => false
  | r :: owed, b :: s => inRange b r && utf8Scan owed s
  | [], b :: s =>
    match utf8Tail b with
    | some owed => utf8Scan owed s
    | none => false

/-- `utf8_ok(s)` (R160). -/
def utf8Ok (s : List Byte) : Bool := utf8Scan [] s

end Sys2Proof.Machine
end

