-- ==== Sys2Proof/Machine/Chunk.lean ====
section
/-! DEFINITION. The no-operation, the chunk constructor, the encoder, the decoder and the text check (R140, R143, R145,
R150, R161), and the wire record (R88, R90). -/

namespace Sys2Proof.Machine

/-- `record(t, p)`, the wire record of type-code bytes `t` and payload `p` (R90). -/
def wireRecord (t p : List Byte) : List Byte :=
  toBe32 (BitVec.ofNat 32 p.length) ++ t ++ p ++ toBe32 (crc32 (t ++ p))

/-- The bytes that CHUNK_ENCODE writes: length, type, payload and the kept checksum (R145). -/
def State.encoded (s : State) : List Byte :=
  toBe32 s.chLen ++ bytesOf s.chType ++ s.payload ++ toBe32 s.chCrc

/-- NOP (R140). -/
def execNop (s : State) : Result := .next s.succeed

/-- CHUNK_NEW (R143). -/
def execChunkNew (s : State) : Result :=
  if !s.tcValid then .next (s.raise .noType)
  else if !s.sourceInBounds then .next (s.raise .outOfBounds)
  else .next (s.bindChunk s.typeReg s.src s.slen (crc32 (bytesOf s.typeReg ++ s.source))).succeed

/-- CHUNK_ENCODE (R145). The payload is read from the state before the write. -/
def execChunkEncode (s : State) : Result :=
  if !s.chValid then .next (s.raise .noChunk)
  else if !s.inBounds s.dstAddr s.recordLen then .next (s.raise .outOfBounds)
  else .next (((s.memWrite s.dstAddr s.encoded).setOutLen (BitVec.ofNat 32 s.recordLen)).succeed)

/-- CHUNK_DECODE (R150), its checks in the rule's order. -/
def execChunkDecode (s : State) : Result :=
  if !s.sourceInBounds then .next (s.raise .outOfBounds)
  else if s.srcLen < 12 then .next (s.raise .incomplete)
  else
    let len := be32 (s.memRead s.srcAddr 4)
    if s.srcLen ≠ 12 + len.toNat then .next (s.raise .invalidLength)
    else
      let t := s.memRead (s.srcAddr + 4) 4
      match validate t with
      | some k => .next (s.raiseAt .badTypeByte k)
      | none =>
        let p := s.memRead (s.srcAddr + 8) len.toNat
        let c := be32 (s.memRead (s.srcAddr + 8 + len.toNat) 4)
        if crc32 (t ++ p) ≠ c then .next (s.raise .checksumMismatch)
        else .next (s.bindChunk (pack t) (BitVec.ofNat 32 (s.srcAddr + 8)) len c).succeed

/-- CHUNK_TEXT (R161). -/
def execChunkText (s : State) : Result :=
  if !s.chValid then .next (s.raise .noChunk)
  else if !utf8Ok s.payload then .next (s.raise .notUtf8)
  else .next s.succeed

end Sys2Proof.Machine
end

