-- ==== Sys2Proof/Machine/Dispatch.lean ====
section
/-! DEFINITION. One arm per command of R83. -/

namespace Sys2Proof.Machine

def exec (i : Instr) (s : State) : Host.Outcome State Fault Refusal :=
  match i with
  | .nop => Sys2Proof.Machine.execNop s
  | .tcLoad => Sys2Proof.Machine.execTcLoad s
  | .tcLoadStr => Sys2Proof.Machine.execTcLoadStr s
  | .chunkNew => Sys2Proof.Machine.execChunkNew s
  | .chunkEncode => Sys2Proof.Machine.execChunkEncode s
  | .chunkDecode => Sys2Proof.Machine.execChunkDecode s
  | .chunkText => Sys2Proof.Machine.execChunkText s
  | .crcInit => Sys2Proof.Machine.execCrcInit s
  | .crcUpdate => Sys2Proof.Machine.execCrcUpdate s

end Sys2Proof.Machine
end

