-- ==== Sys2Proof/Machine/Flags.lean ====
section
/-! DEFINITION. The flag extractor (R123 to R128) and the four read-only views STATUS, TFLAGS, CFLAGS and CRC_VALUE (R27,
R33, R38, R41). A view stores nothing. -/

namespace Sys2Proof.Machine

/-- CRITICAL: bit 5 of type byte 0 is clear (R125). -/
def critical (t : Word) : Bool := !t.getLsbD 29

/-- PUBLIC: bit 5 of type byte 1 is clear (R126). -/
def isPublic (t : Word) : Bool := !t.getLsbD 21

/-- RESERVED_VALID: bit 5 of type byte 2 is clear (R127). -/
def reservedValid (t : Word) : Bool := !t.getLsbD 13

/-- SAFE_TO_COPY: bit 5 of type byte 3 is set (R128). -/
def safeToCopy (t : Word) : Bool := t.getLsbD 5

/-- IS_VALID equals RESERVED_VALID (R127). -/
def isValid (t : Word) : Bool := reservedValid t

/-- The 5-bit flag vector (R124): bit 4 down to bit 0. -/
def flags (t : Word) : BitVec 5 :=
  BitVec.ofBool (isValid t) ++ BitVec.ofBool (safeToCopy t) ++ BitVec.ofBool (reservedValid t)
    ++ BitVec.ofBool (isPublic t) ++ BitVec.ofBool (critical t)

/-- STATUS (R27). -/
def State.status (s : State) : Word :=
  s.err.zeroExtend 32 ||| (s.errIdx.zeroExtend 32 <<< 4)
    ||| ((BitVec.ofBool s.tcValid).zeroExtend 32 <<< 8) ||| ((BitVec.ofBool s.chValid).zeroExtend 32 <<< 9)

/-- TFLAGS (R33). -/
def State.tflags (s : State) : Word := if s.tcValid then (flags s.typeReg).zeroExtend 32 else 0

/-- CFLAGS (R38). -/
def State.cflags (s : State) : Word := if s.chValid then (flags s.chType).zeroExtend 32 else 0

/-- CRC_VALUE (R41). -/
def State.crcValue (s : State) : Word := s.crcState ^^^ crcFinalXor

end Sys2Proof.Machine
end

