-- ==== Sys2Proof/Machine/HostPort.lean ====
section
/-! DEFINITION. The host's five actions (R7, R21 to R25, R61, R62, R200), and the register map (R25). -/

namespace Sys2Proof.Machine

/-- The sixteen registers of R25. -/
inductive Reg where
  | cmd
  | status
  | src
  | slen
  | dst
  | typeIn
  | typeReg
  | tflags
  | chType
  | chAddr
  | chLen
  | chCrc
  | cflags
  | outLen
  | crcState
  | crcValue
  deriving DecidableEq, Repr

/-- The register map of R25. Any other offset, misaligned ones included, is unmapped (R21, R69). -/
def regAt (off : Nat) : Option Reg :=
  match off with
  | 0x00 => some .cmd
  | 0x04 => some .status
  | 0x08 => some .src
  | 0x0C => some .slen
  | 0x10 => some .dst
  | 0x14 => some .typeIn
  | 0x18 => some .typeReg
  | 0x1C => some .tflags
  | 0x20 => some .chType
  | 0x24 => some .chAddr
  | 0x28 => some .chLen
  | 0x2C => some .chCrc
  | 0x30 => some .cflags
  | 0x34 => some .outLen
  | 0x38 => some .crcState
  | 0x3C => some .crcValue
  | _ => none

/-- The value or view that a register reads as (R22, R26 to R41). -/
def State.readReg (s : State) : Reg → Word
  | .cmd => 0
  | .status => s.status
  | .src => s.src
  | .slen => s.slen
  | .dst => s.dst
  | .typeIn => s.typeIn
  | .typeReg => s.typeReg
  | .tflags => s.tflags
  | .chType => s.chType
  | .chAddr => s.chAddr
  | .chLen => s.chLen
  | .chCrc => s.chCrc
  | .cflags => s.cflags
  | .outLen => s.outLen
  | .crcState => s.crcState
  | .crcValue => s.crcValue

/-- The value that RegRead(off) returns: 0 at an unmapped offset (R22). -/
def State.regValue (s : State) (off : Nat) : Word :=
  match regAt off with
  | some r => s.readReg r
  | none => 0

/-- The byte that BufRead(a) returns: 0 past the end of BUF (R61). -/
def State.bufValue (s : State) (a : Nat) : Byte := if a < s.bufSize then s.byteAt a else 0

/-- The host receives what its read returned. -/
def State.answered (s : State) (r : HostAnswer) : State := { s with answer := r }

/-- `execute(v)` (R84): the command word's check, then its command. -/
def runCommandWord (v : Word) (s : State) : Result :=
  match decode v with
  | .ok i => exec i s
  | .error _ => .next (s.raise .illegalCommand)

/-- RegRead(off) (R22). -/
def regRead (off : Nat) (s : State) : Result := .next (s.answered (.word (s.regValue off)))

/-- RegWrite(off, v) (R23). -/
def regWrite (off : Nat) (v : Word) (s : State) : Result :=
  match regAt off with
  | some .cmd => runCommandWord v s
  | some .src => .next { s with src := v }
  | some .slen => .next { s with slen := v }
  | some .dst => .next { s with dst := v }
  | some .typeIn => .next { s with typeIn := v }
  | some .status | some .typeReg | some .tflags | some .chType | some .chAddr | some .chLen | some .chCrc
  | some .cflags | some .outLen | some .crcState | some .crcValue => .next s
  | none => .next s

/-- BufRead(a) (R61). -/
def bufRead (a : Nat) (s : State) : Result := .next (s.answered (.byte (s.bufValue a)))

/-- BufWrite(a, b) (R62). -/
def bufWrite (a : Nat) (b : Byte) (s : State) : Result :=
  if a < s.bufSize then .next (s.memWrite a [b]) else .next s

/-- Reset (R200). -/
def hostReset (s : State) : Result := .next s.resetCore

/-- One host action on the core. -/
def hostAct (a : HostAction) (s : State) : Result :=
  match a with
  | .regRead off => regRead off s
  | .regWrite off v => regWrite off v s
  | .bufRead addr => bufRead addr s
  | .bufWrite addr b => bufWrite addr b s
  | .reset => hostReset s

/-- The host issues its next action: it is no longer to come. -/
def State.issue (s : State) (rest : List HostAction) : State := { s with host := rest }

/-- The host's next action becomes a write of command word `v` to CMD (R26). -/
def State.placeCommand (s : State) (v : Word) : State := { s with host := .regWrite 0 v :: s.host }

end Sys2Proof.Machine
end

