-- ==== Sys2Proof/Machine/Step.lean ====
section
/-! DEFINITION. One step: "Every step of the model is one host action" (R7). With no host action to come the core holds
its state unchanged (R193, R201). -/

namespace Sys2Proof.Machine

def step (s : State) : Host.Outcome State Fault Refusal :=
  match s.host with
  | [] => .next s
  | a :: rest => hostAct a (s.issue rest)

/-- The command word `w`, of `nbits` bits with zeros above them, becomes the host's next write to CMD: the core fetches
nothing (R45, R76), a command reaches it only so. Assumption log 5. -/
def State.withFetchWord (s : State) (nbits w : Nat) : State := s.placeCommand (BitVec.ofNat 32 (w % 2 ^ nbits))

end Sys2Proof.Machine
end

