-- ==== Sys2Proof/Safety.lean ====
section
/-! DEFINITION. What the claims say of a run: the invariants of R48 and of the model's own data, the wire record's
acceptance (R152), well-formed UTF-8 as a table (R160), the table form of the CRC step (R103) and the bytes that a run
feeds to the streaming generator (R106). -/

namespace Sys2Proof.Safety

open Sys2Proof.Machine

/-- The byte is an ASCII letter (R120), said with numbers. -/
def IsLetter (b : Byte) : Prop := (0x41 ≤ b.toNat ∧ b.toNat ≤ 0x5A) ∨ (0x61 ≤ b.toNat ∧ b.toNat ≤ 0x7A)

/-- Type-code byte `k` of a packed type code (R16): byte 0 is the most significant. -/
def typeByte (t : Word) (k : Nat) : Byte := t.extractLsb' (24 - 8 * k) 8

/-- The packed value holds four letters. -/
def LettersOnly (t : Word) : Prop := ∀ k, k < 4 → IsLetter (typeByte t k)

/-- Byte `k` is the first of the packed value's four that is no letter (R121). -/
def FirstNonLetterAt (t : Word) (k : Nat) : Prop :=
  k < 4 ∧ ¬ IsLetter (typeByte t k) ∧ ∀ j, j < k → IsLetter (typeByte t j)

/-- The 32-bit number that four bytes of BUF hold, most significant first (R15, R68). -/
def numberAt (s : State) (a : Nat) : Nat :=
  (s.byteAt a).toNat * 2 ^ 24 + (s.byteAt (a + 1)).toNat * 2 ^ 16 + (s.byteAt (a + 2)).toNat * 2 ^ 8
    + (s.byteAt (a + 3)).toNat

/-- `n` bytes of BUF from `a`, as the host would read them one by one (R141). -/
def bytesFrom (s : State) (a n : Nat) : List Byte := (List.range n).map fun i => s.byteAt (a + i)

/-- The codes that R180 lists as produced. -/
def producedCodes : List (BitVec 4) := [0, 1, 2, 3, 4, 5, 6, 8, 9, 10, 11]

/-- The invariants of R48 (I1 to I5), the parameter's range (R9), and what the model asks of its own BUF data: the
canonical form, and no entry past the end of BUF. -/
structure Inv (s : State) : Prop where
  /-- I1 -/
  typeLetters : s.tcValid = true → LettersOnly s.typeReg
  /-- I2 -/
  chunkLetters : s.chValid = true → LettersOnly s.chType
  /-- I3 -/
  chunkInBounds : s.chValid = true → s.chAddr.toNat + s.chLen.toNat ≤ s.bufSize
  /-- I4 -/
  chunkChecksum : s.chValid = true →
    s.chCrc = crc32 (bytesOf s.chType ++ bytesFrom s s.chAddr.toNat s.chLen.toNat)
  /-- I5, the code -/
  errProduced : s.err ∈ producedCodes
  /-- I5, the index -/
  errIndex : s.err ≠ 1 → s.errIdx = 0
  /-- R9 -/
  sizeLegal : Config.legalBufSize s.bufSize
  /-- the written bytes are in canonical form -/
  bufCanonical : Memory.wf s.buf = true
  /-- the written bytes lie in BUF -/
  bufInside : ∀ a, s.bufSize ≤ a → Memory.find a s.buf = none

/-- The span `bs` is the wire record of letter-only type bytes and some payload, field by field (R88, R152). -/
def Accepted (bs : List Byte) : Prop :=
  12 ≤ bs.length ∧ bs.length = 12 + (be32 (bs.take 4)).toNat ∧ (∀ b ∈ (bs.drop 4).take 4, IsLetter b) ∧
    crc32 ((bs.drop 4).take (bs.length - 8)) = be32 (bs.drop (bs.length - 4))

/-- One code-unit sequence matches a row of R160's table: its first byte lies in the row's first range, and the bytes
after it lie in the row's other ranges, one each. -/
def matchesRow (row : ByteRange × List ByteRange) : List Byte → Prop
  | [] => False
  | b :: rest => (row.1.1 ≤ b ∧ b ≤ row.1.2) ∧ List.Forall₂ (fun x r => r.1 ≤ x ∧ x ≤ r.2) rest row.2

/-- The table of R160 with numbers, written out a second time from the spec. -/
def utf8Table : List (ByteRange × List ByteRange) :=
  [ ((0, 127), []),
    ((194, 223), [(128, 191)]),
    ((224, 224), [(160, 191), (128, 191)]),
    ((225, 236), [(128, 191), (128, 191)]),
    ((237, 237), [(128, 159), (128, 191)]),
    ((238, 239), [(128, 191), (128, 191)]),
    ((240, 240), [(144, 191), (128, 191), (128, 191)]),
    ((241, 243), [(128, 191), (128, 191), (128, 191)]),
    ((244, 244), [(128, 143), (128, 191), (128, 191)]) ]

/-- The sequence splits from its first byte into code-unit sequences that each match a row (R160). -/
def WellFormedUtf8 (s : List Byte) : Prop :=
  ∃ parts : List (List Byte), s = parts.flatten ∧ ∀ p ∈ parts, ∃ row ∈ utf8Table, matchesRow row p

/-- `T[i] = crc_step(0, i)` (R103). -/
def crcTable (i : Byte) : Word := crcStep 0 i

/-- The bytes that one host action feeds to the streaming generator: those of a CRC_UPDATE whose range is in bounds. -/
def fedBy (a : HostAction) (s : State) : List Byte :=
  if a = .regWrite 0 0x00000008 ∧ s.src.toNat + s.slen.toNat ≤ s.bufSize then bytesFrom s s.src.toNat s.slen.toNat
  else []

/-- The state after one step, where it answers one; the model has no fault, and an arm that refuses would leave the
state as it was. -/
def after (s : State) : State :=
  match step s with
  | .next t => t
  | .fault _ => s
  | .refused _ => s

/-- The bytes fed to the streaming generator in the next `n` host actions, in order (R106). -/
def fed : Nat → State → List Byte
  | 0, _ => []
  | n + 1, s =>
    match s.host with
    | [] => []
    | a :: rest => fedBy a (s.issue rest) ++ fed n (after s)

end Sys2Proof.Safety
end

