-- ==== Sys2Proof/Certificates/Slice0/Obligations.lean ====
section
/-! DEFINITION. The statements for the provers. Each docstring names the rule of spec/ that it formalises. -/

open Sys2Proof Sys2Proof.Machine Sys2Proof.Safety

/-! ### The command word -/

/-- R83: the opcode map, the nine words as the rule writes them. -/
def Obligations.OpcodeMapWordsDecode : Prop :=
  decode 0x00000000 = .ok .nop ∧ decode 0x00000001 = .ok .tcLoad ∧ decode 0x00000002 = .ok .tcLoadStr ∧
  decode 0x00000003 = .ok .chunkNew ∧ decode 0x00000004 = .ok .chunkEncode ∧ decode 0x00000005 = .ok .chunkDecode ∧
  decode 0x00000006 = .ok .chunkText ∧ decode 0x00000007 = .ok .crcInit ∧ decode 0x00000008 = .ok .crcUpdate

/-- R84, R85: which words are legal; the whole effect of writing any other to CMD; and that a legal word runs the command
that its OP names. -/
def Obligations.CommandWordIsCheckedThenRun : Prop :=
  ∀ v : Word,
    ((∃ i, decode v = .ok i) ↔ v.extractLsb' 8 24 = 0 ∧ (v.extractLsb' 0 8).toNat ≤ 0x08) ∧
    ∀ (s : State) (rest : List HostAction), s.host = .regWrite 0x00 v :: rest →
      (¬ (v.extractLsb' 8 24 = 0 ∧ (v.extractLsb' 0 8).toNat ≤ 0x08) →
        step s = .next { s with host := rest, err := 8, errIdx := 0 }) ∧
      ∀ i, decode v = .ok i → opcode i = v.extractLsb' 0 8 ∧ step s = exec i { s with host := rest }

/-- R81, R83: no bit of a command word is dropped by the decoder, and each command has one word. -/
def Obligations.CommandWordRoundTrip : Prop :=
  (∀ i : Instr, decode (encode i) = .ok i) ∧ ∀ (v : Word) (i : Instr), decode v = .ok i → v = encode i

/-! ### Host actions -/

/-- R23, R26: a write of a legal word to CMD runs its command, on the state with that action taken off the host's list. -/
def Obligations.StepRunsTheCommandWritten : Prop :=
  ∀ (s : State) (rest : List HostAction) (v : Word) (i : Instr),
    s.host = .regWrite 0x00 v :: rest → decode v = .ok i → step s = exec i { s with host := rest }

/-- R193, R201: with no host action to come, the core holds its state. -/
def Obligations.IdleCoreHoldsItsState : Prop :=
  ∀ s : State, s.host = [] → step s = .next s

/-- R23, R24: the four operand registers take the value and nothing else changes; CMD runs a command; every other offset,
mapped or not, is ignored. -/
def Obligations.RegisterWriteStoresOnlyOperands : Prop :=
  ∀ (s : State) (rest : List HostAction) (off : Nat) (v : Word), s.host = .regWrite off v :: rest →
    (off = 0x08 → step s = .next { s with host := rest, src := v }) ∧
    (off = 0x0C → step s = .next { s with host := rest, slen := v }) ∧
    (off = 0x10 → step s = .next { s with host := rest, dst := v }) ∧
    (off = 0x14 → step s = .next { s with host := rest, typeIn := v }) ∧
    (off = 0x00 → ∀ i, decode v = .ok i → step s = exec i { s with host := rest }) ∧
    (off = 0x00 → (∀ i, decode v ≠ .ok i) → step s = .next { s with host := rest, err := 8, errIdx := 0 }) ∧
    (off ∉ [0x00, 0x08, 0x0C, 0x10, 0x14] → step s = .next { s with host := rest })

/-- R22, with the values of R26 to R41: what RegRead returns at each offset of the map and at any other, and that it
changes nothing of the core. -/
def Obligations.RegisterReadReturnsTheValue : Prop :=
  ∀ (s : State) (rest : List HostAction) (off : Nat), s.host = .regRead off :: rest →
    ∃ x : Word, step s = .next { s with host := rest, answer := .word x } ∧
      (off = 0x00 → x = 0) ∧ (off = 0x04 → x = s.status) ∧ (off = 0x08 → x = s.src) ∧ (off = 0x0C → x = s.slen) ∧
      (off = 0x10 → x = s.dst) ∧ (off = 0x14 → x = s.typeIn) ∧ (off = 0x18 → x = s.typeReg) ∧
      (off = 0x1C → x = s.tflags) ∧ (off = 0x20 → x = s.chType) ∧ (off = 0x24 → x = s.chAddr) ∧
      (off = 0x28 → x = s.chLen) ∧ (off = 0x2C → x = s.chCrc) ∧ (off = 0x30 → x = s.cflags) ∧
      (off = 0x34 → x = s.outLen) ∧ (off = 0x38 → x = s.crcState) ∧ (off = 0x3C → x = s.crcState ^^^ 0xFFFFFFFF) ∧
      (off % 4 ≠ 0 ∨ 0x40 ≤ off → x = 0)

/-- R61: BufRead returns the byte inside BUF and 0 outside it, and changes nothing of the core. -/
def Obligations.BufferReadReturnsTheByte : Prop :=
  ∀ (s : State) (rest : List HostAction) (a : Nat), s.host = .bufRead a :: rest →
    (a < s.bufSize → step s = .next { s with host := rest, answer := .byte (s.byteAt a) }) ∧
    (s.bufSize ≤ a → step s = .next { s with host := rest, answer := .byte 0 })

/-- R62, with R66 and R67: BufWrite writes one byte inside BUF, clears CH_VALID iff the byte lies in the payload, and is
ignored outside BUF. -/
def Obligations.BufferWriteStoresOneByte : Prop :=
  ∀ (s : State) (rest : List HostAction) (a : Nat) (b : Byte), s.host = .bufWrite a b :: rest →
    (s.bufSize ≤ a → step s = .next { s with host := rest }) ∧
    (a < s.bufSize → ∃ t, step s = .next t ∧ t.byteAt a = b ∧ (∀ x, x ≠ a → t.byteAt x = s.byteAt x) ∧
      (t.chValid = true ↔ s.chValid = true ∧ ¬ (s.chAddr.toNat ≤ a ∧ a < s.chAddr.toNat + s.chLen.toNat)) ∧
      t = { s with host := rest, buf := t.buf, chValid := t.chValid })

/-- R70: "BufWrite of the same byte twice leaves the same state as once". -/
def Obligations.BufferWriteIsIdempotent : Prop :=
  ∀ (s t : State) (a : Nat) (b : Byte), hostAct (.bufWrite a b) s = .next t → hostAct (.bufWrite a b) t = .next t

/-- R200: the Reset action gives every register and bit its reset value, from which the four views read 0, and the core
begins with the same values. BUF's bytes are unspecified: nothing is said of them. -/
def Obligations.ResetGivesTheResetValues : Prop :=
  (∀ (s : State) (rest : List HostAction), s.host = .reset :: rest →
    ∃ t, step s = .next t ∧
      t.src = 0 ∧ t.slen = 0 ∧ t.dst = 0 ∧ t.typeIn = 0 ∧ t.typeReg = 0 ∧ t.tcValid = false ∧
      t.chType = 0 ∧ t.chAddr = 0 ∧ t.chLen = 0 ∧ t.chCrc = 0 ∧ t.chValid = false ∧ t.outLen = 0 ∧
      t.crcState = 0xFFFFFFFF ∧ t.err = 0 ∧ t.errIdx = 0 ∧
      t.status = 0 ∧ t.tflags = 0 ∧ t.cflags = 0 ∧ t.crcValue = 0) ∧
  State.reset.src = 0 ∧ State.reset.slen = 0 ∧ State.reset.dst = 0 ∧ State.reset.typeIn = 0 ∧
  State.reset.typeReg = 0 ∧ State.reset.tcValid = false ∧ State.reset.chType = 0 ∧ State.reset.chAddr = 0 ∧
  State.reset.chLen = 0 ∧ State.reset.chCrc = 0 ∧ State.reset.chValid = false ∧ State.reset.outLen = 0 ∧
  State.reset.crcState = 0xFFFFFFFF ∧ State.reset.err = 0 ∧ State.reset.errIdx = 0 ∧
  State.reset.status = 0 ∧ State.reset.tflags = 0 ∧ State.reset.cflags = 0 ∧ State.reset.crcValue = 0

/-- The model's own form of R64's draws (assumption log 2): a Reset leaves no written byte, so every byte of BUF reads as
the draw of the new reset; the size of BUF (R9), the host's list (log 3) and its last answer (log 4) stay. -/
def Obligations.ResetDrawsEveryByteAnew : Prop :=
  ∀ (s : State) (rest : List HostAction), s.host = .reset :: rest →
    ∃ t, step s = .next t ∧ (∀ a, t.byteAt a = Config.bufDraw (s.draw + 1) a) ∧
      t.bufSize = s.bufSize ∧ t.host = rest ∧ t.answer = s.answer

/-! ### Byte order and views -/

/-- R15: the big-endian helpers, as numbers, and that they are inverse. -/
def Obligations.BigEndianHelpersAreInverse : Prop :=
  (∀ b0 b1 b2 b3 : Byte,
    (be32 [b0, b1, b2, b3]).toNat = b0.toNat * 2 ^ 24 + b1.toNat * 2 ^ 16 + b2.toNat * 2 ^ 8 + b3.toNat) ∧
  (∀ v : Word, toBe32 v =
    [BitVec.ofNat 8 (v.toNat / 2 ^ 24), BitVec.ofNat 8 (v.toNat / 2 ^ 16), BitVec.ofNat 8 (v.toNat / 2 ^ 8),
      BitVec.ofNat 8 v.toNat]) ∧
  (∀ v : Word, be32 (toBe32 v) = v) ∧ ∀ s : List Byte, s.length = 4 → toBe32 (be32 s) = s

/-- R16: the four bytes of a packed type code, byte 0 the most significant; bit 5 of byte k is bit 29 - 8k; `pack` undoes
`bytes_of`. -/
def Obligations.TypeCodePacking : Prop :=
  (∀ t : Word, bytesOf t = [typeByte t 0, typeByte t 1, typeByte t 2, typeByte t 3] ∧ pack (bytesOf t) = t) ∧
  (∀ (t : Word) (k : Nat), k < 4 → (typeByte t k).getLsbD 5 = t.getLsbD (29 - 8 * k)) ∧
  ∀ s : List Byte, s.length = 4 → bytesOf (pack s) = s

/-- R27: the fields of STATUS, its reserved bits, and that a host write to it is ignored. -/
def Obligations.StatusShowsItsFields : Prop :=
  ∀ s : State,
    s.status.extractLsb' 0 4 = s.err ∧ s.status.extractLsb' 4 2 = s.errIdx ∧ s.status.extractLsb' 6 2 = 0 ∧
    s.status.getLsbD 8 = s.tcValid ∧ s.status.getLsbD 9 = s.chValid ∧ s.status.extractLsb' 10 22 = 0 ∧
    (∀ v, hostAct (.regWrite 0x04 v) s = .next s) ∧ State.reset.status = 0

/-- R33, R38, with the flags of R124 to R128: each flag of TFLAGS and CFLAGS, from bit 5 of its own type byte, and 0 while
the valid bit is clear, as after reset. -/
def Obligations.FlagViewsReadTypeByteBits : Prop :=
  State.reset.tflags = 0 ∧ State.reset.cflags = 0 ∧ ∀ s : State,
    (s.tcValid = false → s.tflags = 0) ∧
    (s.tcValid = true →
      s.tflags.getLsbD 0 = !(typeByte s.typeReg 0).getLsbD 5 ∧ s.tflags.getLsbD 1 = !(typeByte s.typeReg 1).getLsbD 5 ∧
      s.tflags.getLsbD 2 = !(typeByte s.typeReg 2).getLsbD 5 ∧ s.tflags.getLsbD 3 = (typeByte s.typeReg 3).getLsbD 5 ∧
      s.tflags.getLsbD 4 = !(typeByte s.typeReg 2).getLsbD 5 ∧ s.tflags.extractLsb' 5 27 = 0) ∧
    (s.chValid = false → s.cflags = 0) ∧
    (s.chValid = true →
      s.cflags.getLsbD 0 = !(typeByte s.chType 0).getLsbD 5 ∧ s.cflags.getLsbD 1 = !(typeByte s.chType 1).getLsbD 5 ∧
      s.cflags.getLsbD 2 = !(typeByte s.chType 2).getLsbD 5 ∧ s.cflags.getLsbD 3 = (typeByte s.chType 3).getLsbD 5 ∧
      s.cflags.getLsbD 4 = !(typeByte s.chType 2).getLsbD 5 ∧ s.cflags.extractLsb' 5 27 = 0)

/-- R129: flag 0 depends only on bit 29, flag 1 on bit 21, flags 2 and 4 on bit 13, flag 3 on bit 5; so a change of any
other type byte does not change a flag. -/
def Obligations.FlagsDependOnTheirOwnByte : Prop :=
  ∀ t u : Word,
    (t.getLsbD 29 = u.getLsbD 29 → (flags t).getLsbD 0 = (flags u).getLsbD 0) ∧
    (t.getLsbD 21 = u.getLsbD 21 → (flags t).getLsbD 1 = (flags u).getLsbD 1) ∧
    (t.getLsbD 13 = u.getLsbD 13 → (flags t).getLsbD 2 = (flags u).getLsbD 2 ∧ (flags t).getLsbD 4 = (flags u).getLsbD 4) ∧
    (t.getLsbD 5 = u.getLsbD 5 → (flags t).getLsbD 3 = (flags u).getLsbD 3) ∧
    (typeByte t 0 = typeByte u 0 → (flags t).getLsbD 0 = (flags u).getLsbD 0) ∧
    (typeByte t 1 = typeByte u 1 → (flags t).getLsbD 1 = (flags u).getLsbD 1) ∧
    (typeByte t 2 = typeByte u 2 → (flags t).getLsbD 2 = (flags u).getLsbD 2 ∧ (flags t).getLsbD 4 = (flags u).getLsbD 4) ∧
    (typeByte t 3 = typeByte u 3 → (flags t).getLsbD 3 = (flags u).getLsbD 3)

/-- R120, R123, R125 to R128: which bytes the model takes for letters; that for a letter bit 5 is clear iff it is upper
case; and so, after a successful TC_LOAD, that each flag of TFLAGS shows the case of its own type byte. -/
def Obligations.LetterCaseIsBitFive : Prop :=
  (∀ b : Byte, isLetter b = true ↔ (0x41 ≤ b.toNat ∧ b.toNat ≤ 0x5A) ∨ (0x61 ≤ b.toNat ∧ b.toNat ≤ 0x7A)) ∧
  (∀ b : Byte, isLetter b = true →
    (b.getLsbD 5 = false ↔ 0x41 ≤ b.toNat ∧ b.toNat ≤ 0x5A) ∧ (b.getLsbD 5 = true ↔ 0x61 ≤ b.toNat ∧ b.toNat ≤ 0x7A)) ∧
  ∀ s t : State, exec .tcLoad s = .next t → t.err = 0 →
    (t.tflags.getLsbD 0 = true ↔ 0x41 ≤ (typeByte s.typeIn 0).toNat ∧ (typeByte s.typeIn 0).toNat ≤ 0x5A) ∧
    (t.tflags.getLsbD 1 = true ↔ 0x41 ≤ (typeByte s.typeIn 1).toNat ∧ (typeByte s.typeIn 1).toNat ≤ 0x5A) ∧
    (t.tflags.getLsbD 2 = true ↔ 0x41 ≤ (typeByte s.typeIn 2).toNat ∧ (typeByte s.typeIn 2).toNat ≤ 0x5A) ∧
    (t.tflags.getLsbD 3 = true ↔ 0x61 ≤ (typeByte s.typeIn 3).toNat ∧ (typeByte s.typeIn 3).toNat ≤ 0x7A) ∧
    (t.tflags.getLsbD 4 = true ↔ 0x41 ≤ (typeByte s.typeIn 2).toNat ∧ (typeByte s.typeIn 2).toNat ≤ 0x5A)

/-! ### CRC-32 -/

/-- R103: the table-driven step equals the bitwise step for every register value and byte, and the rule's spot values. -/
def Obligations.TableDrivenCrcStepAgrees : Prop :=
  (∀ (r : Word) (b : Byte), crcStep r b = (r >>> 8) ^^^ crcTable ((r ^^^ b.zeroExtend 32).extractLsb' 0 8)) ∧
  crcTable 0x00 = 0x00000000 ∧ crcTable 0x01 = 0x77073096 ∧ crcTable 0x02 = 0xEE0E612C ∧
  crcTable 0x80 = 0xEDB88320 ∧ crcTable 0xFF = 0x2D02EF8D

/-- R100: the check value, on the bytes of "123456789"; R102: the empty sequence. -/
def Obligations.CrcCheckValue : Prop :=
  crc32 [0x31, 0x32, 0x33, 0x34, 0x35, 0x36, 0x37, 0x38, 0x39] = 0xCBF43926 ∧ crc32 [] = 0

/-- R107: a change confined to one byte always changes the checksum. -/
def Obligations.OneChangedByteChangesTheChecksum : Prop :=
  ∀ (xs ys : List Byte) (b c : Byte), b ≠ c → crc32 (xs ++ b :: ys) ≠ crc32 (xs ++ c :: ys)

/-- R104: CRC_INIT. -/
def Obligations.CrcInitResult : Prop :=
  decode 0x00000007 = .ok .crcInit ∧ ∀ s : State, exec .crcInit s = .next { s with crcState := 0xFFFFFFFF, err := 0, errIdx := 0 } ∧
    ∀ t, exec .crcInit s = .next t → t.crcValue = 0 ∧ t.crcValue = crc32 [] ∧ t.tflags = s.tflags ∧ t.cflags = s.cflags

/-- R105: CRC_UPDATE, in bounds and out of bounds. -/
def Obligations.CrcUpdateResult : Prop :=
  decode 0x00000008 = .ok .crcUpdate ∧ ∀ s : State,
    (s.src.toNat + s.slen.toNat ≤ s.bufSize →
      exec .crcUpdate s = .next { s with
        crcState := crcFold (bytesFrom s s.src.toNat s.slen.toNat) s.crcState, err := 0, errIdx := 0 }) ∧
    (s.bufSize < s.src.toNat + s.slen.toNat → exec .crcUpdate s = .next { s with err := 11, errIdx := 0 })

/-- R106: whatever the host does for `n` actions from a state whose CRC_STATE is the initial value, short of a CRC_INIT or
a Reset, CRC_VALUE is the checksum of the bytes that the successful CRC_UPDATE commands were given, in order. -/
def Obligations.StreamingChecksumOfAllBytesFed : Prop :=
  ∀ (n : Nat) (s : State), s.crcState = 0xFFFFFFFF →
    (∀ a ∈ s.host.take n, a ≠ .regWrite 0x00 0x00000007 ∧ a ≠ .reset) →
    ∃ t, core.run n s = .next t ∧ t.crcValue = crc32 (fed n s)

/-! ### Type codes -/

/-- R130, with R121: TC_LOAD on four letters, and on any other value. -/
def Obligations.TcLoadResult : Prop :=
  decode 0x00000001 = .ok .tcLoad ∧ ∀ s : State,
    (LettersOnly s.typeIn → ∃ t,
      exec .tcLoad s = .next t ∧ t = { s with typeReg := s.typeIn, tcValid := true, err := 0, errIdx := 0 } ∧
      t.tflags = (flags s.typeIn).zeroExtend 32 ∧ t.cflags = s.cflags) ∧
    ∀ k, FirstNonLetterAt s.typeIn k → exec .tcLoad s = .next { s with err := 1, errIdx := BitVec.ofNat 2 k }

/-- R122: construction from four raw bytes succeeds iff every byte is a letter; on any other value some byte is the
first that is no letter. -/
def Obligations.TypeCodeConstructsIffLetters : Prop :=
  ∀ s : State, ((∃ t, exec .tcLoad s = .next t ∧ t.err = 0) ↔ LettersOnly s.typeIn) ∧
    (¬ LettersOnly s.typeIn ↔ ∃ k, FirstNonLetterAt s.typeIn k)

/-- R131, R182: TC_LOAD_STR, its checks in order, for the packed value `w` of the four bytes at SRC. -/
def Obligations.TcLoadStrResult : Prop :=
  decode 0x00000002 = .ok .tcLoadStr ∧ ∀ s : State,
    (s.bufSize < s.src.toNat + s.slen.toNat → exec .tcLoadStr s = .next { s with err := 11, errIdx := 0 }) ∧
    (s.src.toNat + s.slen.toNat ≤ s.bufSize → s.slen.toNat ≠ 4 →
      exec .tcLoadStr s = .next { s with err := 2, errIdx := 0 }) ∧
    ∀ w : Word, s.src.toNat + s.slen.toNat ≤ s.bufSize → s.slen.toNat = 4 →
      (∀ k, k < 4 → typeByte w k = s.byteAt (s.src.toNat + k)) →
      (LettersOnly w → ∃ t,
        exec .tcLoadStr s = .next t ∧ t = { s with typeReg := w, tcValid := true, err := 0, errIdx := 0 } ∧
        t.tflags = (flags w).zeroExtend 32) ∧
      ∀ k, FirstNonLetterAt w k → exec .tcLoadStr s = .next { s with err := 1, errIdx := BitVec.ofNat 2 k }

/-- R132: changing the case of type byte 2, which turns IS_VALID, changes no command's error: of any command, where the
byte is changed in TYPE_IN, in TYPE or in CH_TYPE; of TC_LOAD_STR, where it is changed in the string; of CHUNK_DECODE, where
the one record gives place to the record of the other type code and the same payload. -/
def Obligations.IsValidGatesNoCommand : Prop :=
  (∀ (i : Instr) (s t t' : State) (x y z : Word), x ∈ [0, 0x00002000] → y ∈ [0, 0x00002000] → z ∈ [0, 0x00002000] →
    exec i s = .next t →
    exec i { s with typeIn := s.typeIn ^^^ x, typeReg := s.typeReg ^^^ y, chType := s.chType ^^^ z } = .next t' →
    t'.err = t.err ∧ t'.errIdx = t.errIdx) ∧
  (∀ s t t' : State, exec .tcLoadStr s = .next t →
    exec .tcLoadStr { s with buf := Memory.write (s.src.toNat + 2) (s.byteAt (s.src.toNat + 2) ^^^ 0x20) s.buf }
      = .next t' →
    t'.err = t.err ∧ t'.errIdx = t.errIdx) ∧
  ∀ (s t t' : State) (m : Memory) (b0 b1 b2 b3 : Byte) (p : List Byte),
    bytesFrom s s.src.toNat s.slen.toNat = wireRecord [b0, b1, b2, b3] p →
    bytesFrom { s with buf := m } s.src.toNat s.slen.toNat = wireRecord [b0, b1, b2 ^^^ 0x20, b3] p →
    exec .chunkDecode s = .next t → exec .chunkDecode { s with buf := m } = .next t' →
    t'.err = t.err ∧ t'.errIdx = t.errIdx

/-! ### Chunks -/

/-- R140: NOP, and that a write of 0 to CMD is this command. -/
def Obligations.NopOnlyClearsTheError : Prop :=
  decode 0x00000000 = .ok .nop ∧ ∀ s : State, exec .nop s = .next { s with err := 0, errIdx := 0 } ∧
    ∀ rest, s.host = .regWrite 0x00 0 :: rest → step s = .next { s with host := rest, err := 0, errIdx := 0 }

/-- R143, R182: CHUNK_NEW, its checks in order. -/
def Obligations.ChunkNewResult : Prop :=
  decode 0x00000003 = .ok .chunkNew ∧ ∀ s : State,
    (s.tcValid = false → exec .chunkNew s = .next { s with err := 9, errIdx := 0 }) ∧
    (s.tcValid = true → s.bufSize < s.src.toNat + s.slen.toNat →
      exec .chunkNew s = .next { s with err := 11, errIdx := 0 }) ∧
    (s.tcValid = true → s.src.toNat + s.slen.toNat ≤ s.bufSize → ∃ t,
      exec .chunkNew s = .next t ∧
      t = { s with
        chType := s.typeReg, chAddr := s.src, chLen := s.slen, chValid := true, err := 0, errIdx := 0,
        chCrc := crc32 (bytesOf s.typeReg ++ bytesFrom s s.src.toNat s.slen.toNat) } ∧
      t.cflags = (flags s.typeReg).zeroExtend 32)

/-- R145, R67, R79, R182: CHUNK_ENCODE, its checks in order; the record is built from the payload as it was before the
write, no other byte of BUF changes, and CH_VALID survives iff the written range misses the payload. -/
def Obligations.ChunkEncodeResult : Prop :=
  decode 0x00000004 = .ok .chunkEncode ∧ ∀ s : State, Config.legalBufSize s.bufSize →
    (s.chValid = false → exec .chunkEncode s = .next { s with err := 10, errIdx := 0 }) ∧
    (s.chValid = true → s.bufSize < s.dst.toNat + (12 + s.chLen.toNat) →
      exec .chunkEncode s = .next { s with err := 11, errIdx := 0 }) ∧
    (s.chValid = true → s.dst.toNat + (12 + s.chLen.toNat) ≤ s.bufSize → ∃ t, exec .chunkEncode s = .next t ∧
      bytesFrom t s.dst.toNat (12 + s.chLen.toNat) =
        toBe32 s.chLen ++ bytesOf s.chType ++ bytesFrom s s.chAddr.toNat s.chLen.toNat ++ toBe32 s.chCrc ∧
      (∀ x, x < s.dst.toNat ∨ s.dst.toNat + (12 + s.chLen.toNat) ≤ x → t.byteAt x = s.byteAt x) ∧
      t.outLen.toNat = 12 + s.chLen.toNat ∧
      (t.chValid = true ↔ ¬ ∃ x, (s.dst.toNat ≤ x ∧ x < s.dst.toNat + (12 + s.chLen.toNat)) ∧
        s.chAddr.toNat ≤ x ∧ x < s.chAddr.toNat + s.chLen.toNat) ∧
      t = { s with buf := t.buf, chValid := t.chValid, outLen := t.outLen, err := 0, errIdx := 0 })

/-- R146: from a chunk that meets the invariants, a successful CHUNK_ENCODE writes exactly the wire record. -/
def Obligations.EncoderWritesTheWireRecord : Prop :=
  ∀ s t : State, Inv s → exec .chunkEncode s = .next t → t.err = 0 →
    bytesFrom t s.dst.toNat (12 + s.chLen.toNat) =
      wireRecord (bytesOf s.chType) (bytesFrom s s.chAddr.toNat s.chLen.toNat) ∧
    ∀ x, x < s.dst.toNat ∨ s.dst.toNat + (12 + s.chLen.toNat) ≤ x → t.byteAt x = s.byteAt x

/-- R150, R182: CHUNK_DECODE, its checks in the rule's order, each outcome with its condition; `w` is the packed value of
the four type bytes at SRC + 4. -/
def Obligations.ChunkDecodeResult : Prop :=
  decode 0x00000005 = .ok .chunkDecode ∧ ∀ s : State,
    (s.bufSize < s.src.toNat + s.slen.toNat → exec .chunkDecode s = .next { s with err := 11, errIdx := 0 }) ∧
    (s.src.toNat + s.slen.toNat ≤ s.bufSize → s.slen.toNat < 12 →
      exec .chunkDecode s = .next { s with err := 3, errIdx := 0 }) ∧
    (s.src.toNat + s.slen.toNat ≤ s.bufSize → 12 ≤ s.slen.toNat → s.slen.toNat ≠ 12 + numberAt s s.src.toNat →
      exec .chunkDecode s = .next { s with err := 4, errIdx := 0 }) ∧
    ∀ w : Word, s.src.toNat + s.slen.toNat ≤ s.bufSize → s.slen.toNat = 12 + numberAt s s.src.toNat →
      (∀ k, k < 4 → typeByte w k = s.byteAt (s.src.toNat + 4 + k)) →
      (∀ k, FirstNonLetterAt w k → exec .chunkDecode s = .next { s with err := 1, errIdx := BitVec.ofNat 2 k }) ∧
      (LettersOnly w →
        (crc32 (bytesFrom s (s.src.toNat + 4) (s.slen.toNat - 8))).toNat
            ≠ numberAt s (s.src.toNat + s.slen.toNat - 4) →
        exec .chunkDecode s = .next { s with err := 5, errIdx := 0 }) ∧
      (LettersOnly w →
        (crc32 (bytesFrom s (s.src.toNat + 4) (s.slen.toNat - 8))).toNat
            = numberAt s (s.src.toNat + s.slen.toNat - 4) →
        ∃ t, exec .chunkDecode s = .next t ∧
          t = { s with
            chType := w, chAddr := BitVec.ofNat 32 (s.src.toNat + 8),
            chLen := BitVec.ofNat 32 (numberAt s s.src.toNat),
            chCrc := BitVec.ofNat 32 (numberAt s (s.src.toNat + s.slen.toNat - 4)),
            chValid := true, err := 0, errIdx := 0 } ∧
          t.cflags = (flags w).zeroExtend 32 ∧ t.tflags = s.tflags ∧
          (Config.legalBufSize s.bufSize → t.chAddr.toNat = s.src.toNat + 8))

/-- R151: a failed decode leaves the chunk as it was. -/
def Obligations.FailedDecodeKeepsTheChunk : Prop :=
  ∀ s t : State, exec .chunkDecode s = .next t → t.err ≠ 0 →
    t.chType = s.chType ∧ t.chAddr = s.chAddr ∧ t.chLen = s.chLen ∧ t.chCrc = s.chCrc ∧ t.chValid = s.chValid

/-- R152: over a span in bounds, CHUNK_DECODE succeeds iff the span passes (a) to (d), and these say that the span is the
wire record of its own type bytes, all letters, and its own payload. -/
def Obligations.DecoderAcceptsExactlyRecords : Prop :=
  ∀ s : State, s.src.toNat + s.slen.toNat ≤ s.bufSize →
    ((∃ t, exec .chunkDecode s = .next t ∧ t.err = 0) ↔ Accepted (bytesFrom s s.src.toNat s.slen.toNat)) ∧
    ∀ bs : List Byte, bs.length < 2 ^ 32 → (Accepted bs ↔
      ∃ ty p, ty.length = 4 ∧ (∀ b ∈ ty, IsLetter b) ∧ bs = wireRecord ty p ∧
        ty = (bs.drop 4).take 4 ∧ p = (bs.drop 8).take (bs.length - 12))

/-- R153: the round trip, as six host actions from any state with a loaded type code. -/
def Obligations.RecordRoundTrip : Prop :=
  ∀ (s : State) (d : Word) (rest : List HostAction),
    Config.legalBufSize s.bufSize → s.tcValid = true → LettersOnly s.typeReg →
    s.src.toNat + s.slen.toNat ≤ s.bufSize → d.toNat + (12 + s.slen.toNat) ≤ s.bufSize →
    s.host = .regWrite 0x00 0x00000003 :: .regWrite 0x10 d :: .regWrite 0x00 0x00000004 :: .regWrite 0x08 d ::
      .regWrite 0x0C (s.slen + 12) :: .regWrite 0x00 0x00000005 :: rest →
    ∃ t, core.run 6 s = .next t ∧ t.err = 0 ∧ t.chValid = true ∧ t.chType = s.typeReg ∧ t.chLen = s.slen ∧
      bytesFrom t t.chAddr.toNat t.chLen.toNat = bytesFrom s s.src.toNat s.slen.toNat ∧
      t.chCrc = crc32 (bytesOf s.typeReg ++ bytesFrom s s.src.toNat s.slen.toNat)

/-- R154: after a successful decode of a span, an encode to any destination in bounds writes exactly that span. -/
def Obligations.ReEncodeWritesTheDecodedSpan : Prop :=
  ∀ (s t : State) (d : Word), Config.legalBufSize s.bufSize →
    exec .chunkDecode s = .next t → t.err = 0 → d.toNat + s.slen.toNat ≤ s.bufSize →
    ∃ u, exec .chunkEncode { t with dst := d } = .next u ∧ u.err = 0 ∧
      bytesFrom u d.toNat s.slen.toNat = bytesFrom s s.src.toNat s.slen.toNat

/-- R107 and R150 together: a record that decodes no longer does when exactly one byte of its type or payload differs. -/
def Obligations.DecodeDetectsOneCorruptByte : Prop :=
  ∀ (s t : State) (x : Nat) (b : Byte), exec .chunkDecode s = .next t → t.err = 0 →
    s.src.toNat + 4 ≤ x → x < s.src.toNat + s.slen.toNat - 4 → b ≠ s.byteAt x →
    ∃ u, exec .chunkDecode { s with buf := Memory.write x b s.buf } = .next u ∧ (u.err = 1 ∨ u.err = 5)

/-- R160: the text check accepts exactly the sequences that split into rows of the table. -/
def Obligations.Utf8CheckMatchesTheTable : Prop :=
  ∀ bs : List Byte, utf8Ok bs = true ↔ WellFormedUtf8 bs

/-- R161, R182: CHUNK_TEXT, its checks in order. -/
def Obligations.ChunkTextResult : Prop :=
  decode 0x00000006 = .ok .chunkText ∧ ∀ s : State,
    (s.chValid = false → exec .chunkText s = .next { s with err := 10, errIdx := 0 }) ∧
    (s.chValid = true → ¬ WellFormedUtf8 (bytesFrom s s.chAddr.toNat s.chLen.toNat) →
      exec .chunkText s = .next { s with err := 6, errIdx := 0 }) ∧
    (s.chValid = true → WellFormedUtf8 (bytesFrom s s.chAddr.toNat s.chLen.toNat) →
      exec .chunkText s = .next { s with err := 0, errIdx := 0 })

/-! ### Rules of the whole machine -/

/-- R8, R181: every host action completes, and a command ends in exactly one of two outcomes: success, with ERR and
ERR_IDX 0, or an error, which changes ERR and ERR_IDX and nothing else. -/
def Obligations.EveryActionCompletes : Prop :=
  (∀ s : State, ∃ t, step s = .next t) ∧
  ∀ (i : Instr) (s : State), ∃ t, exec i s = .next t ∧
    (t.err = 0 ∧ t.errIdx = 0 ∨ t.err ≠ 0 ∧ t = { s with err := t.err, errIdx := t.errIdx })

/-- R180: the codes each command can end in, and the index that goes with each. -/
def Obligations.ErrorCodesOfEachCommand : Prop :=
  ∀ (i : Instr) (s t : State), exec i s = .next t →
    (t.err ≠ 1 → t.errIdx = 0) ∧
    (i = .nop → t.err = 0) ∧ (i = .crcInit → t.err = 0) ∧ (i = .crcUpdate → t.err = 0 ∨ t.err = 11) ∧
    (i = .tcLoad → t.err = 0 ∨ t.err = 1) ∧
    (i = .tcLoadStr → t.err = 0 ∨ t.err = 11 ∨ t.err = 2 ∨ t.err = 1) ∧
    (i = .chunkNew → t.err = 0 ∨ t.err = 9 ∨ t.err = 11) ∧
    (i = .chunkEncode → t.err = 0 ∨ t.err = 10 ∨ t.err = 11) ∧
    (i = .chunkDecode → t.err = 0 ∨ t.err = 11 ∨ t.err = 3 ∨ t.err = 4 ∨ t.err = 1 ∨ t.err = 5) ∧
    (i = .chunkText → t.err = 0 ∨ t.err = 10 ∨ t.err = 6)

/-- R48: the invariants hold at reset, for a BUF of any legal size and any draw of its bytes. -/
def Obligations.InvariantsHoldAtReset : Prop :=
  Inv State.reset ∧ ∀ n draw : Nat, Config.legalBufSize n → Inv (State.atReset n draw)

/-- R48: every host action keeps the invariants. -/
def Obligations.InvariantsHoldAfterEveryAction : Prop :=
  ∀ s t : State, Inv s → step s = .next t → Inv t

/-- R44, R82: what each command leaves unchanged. Every field that a line does not name is as before, whatever the
outcome, and every byte of BUF except those of the record that CHUNK_ENCODE writes. -/
def Obligations.CommandFrames : Prop :=
  ∀ s t : State,
    (∀ i, i = .nop ∨ i = .chunkText → exec i s = .next t →
      t = { s with err := t.err, errIdx := t.errIdx } ∧ ∀ a, t.byteAt a = s.byteAt a) ∧
    (∀ i, i = .tcLoad ∨ i = .tcLoadStr → exec i s = .next t →
      t = { s with typeReg := t.typeReg, tcValid := t.tcValid, err := t.err, errIdx := t.errIdx } ∧
      ∀ a, t.byteAt a = s.byteAt a) ∧
    (∀ i, i = .crcInit ∨ i = .crcUpdate → exec i s = .next t →
      t = { s with crcState := t.crcState, err := t.err, errIdx := t.errIdx } ∧ ∀ a, t.byteAt a = s.byteAt a) ∧
    (∀ i, i = .chunkNew ∨ i = .chunkDecode → exec i s = .next t →
      t = { s with
        chType := t.chType, chAddr := t.chAddr, chLen := t.chLen, chCrc := t.chCrc, chValid := t.chValid,
        err := t.err, errIdx := t.errIdx } ∧
      ∀ a, t.byteAt a = s.byteAt a) ∧
    (exec .chunkEncode s = .next t →
      t = { s with buf := t.buf, chValid := t.chValid, outLen := t.outLen, err := t.err, errIdx := t.errIdx } ∧
      (t.err ≠ 0 → ∀ a, t.byteAt a = s.byteAt a) ∧
      ∀ a, a < s.dst.toNat ∨ s.dst.toNat + (12 + s.chLen.toNat) ≤ a → t.byteAt a = s.byteAt a)

/-- R64, R78: a byte of BUF keeps its value over any host action but a Reset, a BufWrite to it, and a CHUNK_ENCODE whose
record covers it. R9: no action changes BUF_SIZE. -/
def Obligations.ByteKeepsItsValueUntilWritten : Prop :=
  ∀ (s t : State) (act : HostAction) (rest : List HostAction) (a : Nat),
    s.host = act :: rest → step s = .next t →
    t.bufSize = s.bufSize ∧
    (act ≠ .reset → (∀ b, act ≠ .bufWrite a b) →
      ¬ (act = .regWrite 0x00 0x00000004 ∧ s.dst.toNat ≤ a ∧ a < s.dst.toNat + (12 + s.chLen.toNat)) →
      t.byteAt a = s.byteAt a)

/-- R185, R23, R62: only a write to CMD and a Reset change ERR or ERR_IDX. -/
def Obligations.OnlyCommandsChangeTheError : Prop :=
  ∀ (s t : State) (act : HostAction) (rest : List HostAction),
    s.host = act :: rest → step s = .next t → act ≠ .reset → (∀ v, act ≠ .regWrite 0x00 v) →
    t.err = s.err ∧ t.errIdx = s.errIdx

/-- R42: only a successful TC_LOAD or TC_LOAD_STR sets TC_VALID or writes TYPE, and only a Reset clears TC_VALID. -/
def Obligations.TypeCodeStaysUntilLoadedOrReset : Prop :=
  ∀ (s t : State) (act : HostAction) (rest : List HostAction), s.host = act :: rest → step s = .next t →
    (act ≠ .reset → s.tcValid = true → t.tcValid = true) ∧
    (act ≠ .reset → t.typeReg ≠ s.typeReg ∨ t.tcValid ≠ s.tcValid →
      (act = .regWrite 0x00 0x00000001 ∨ act = .regWrite 0x00 0x00000002) ∧ t.err = 0 ∧ t.tcValid = true)

/-- R43: CH_VALID is set only by a successful CHUNK_NEW or CHUNK_DECODE, and cleared only by a Reset, by a BufWrite into
the payload, or by a CHUNK_ENCODE whose record meets the payload. -/
def Obligations.ChunkValidityChangesOnlyAsStated : Prop :=
  ∀ (s t : State) (act : HostAction) (rest : List HostAction), s.host = act :: rest → step s = .next t →
    (s.chValid = false → t.chValid = true →
      (act = .regWrite 0x00 0x00000003 ∨ act = .regWrite 0x00 0x00000005) ∧ t.err = 0) ∧
    (s.chValid = true → t.chValid = false →
      act = .reset ∨
      (∃ a b, act = .bufWrite a b ∧ s.chAddr.toNat ≤ a ∧ a < s.chAddr.toNat + s.chLen.toNat) ∨
      (act = .regWrite 0x00 0x00000004 ∧ t.err = 0 ∧
        ∃ x, (s.dst.toNat ≤ x ∧ x < s.dst.toNat + (12 + s.chLen.toNat)) ∧
          s.chAddr.toNat ≤ x ∧ x < s.chAddr.toNat + s.chLen.toNat))

/-- R47, R204: while a chunk stays valid its type, length, checksum and payload bytes never change; only a successful
CHUNK_NEW or CHUNK_DECODE puts another chunk in its place. -/
def Obligations.ValidChunkNeverChanges : Prop :=
  ∀ (s t : State) (act : HostAction) (rest : List HostAction), s.host = act :: rest → step s = .next t →
    t.chValid = true →
    (s.chValid = true ∧ t.chType = s.chType ∧ t.chAddr = s.chAddr ∧ t.chLen = s.chLen ∧ t.chCrc = s.chCrc ∧
      bytesFrom t t.chAddr.toNat t.chLen.toNat = bytesFrom s s.chAddr.toNat s.chLen.toNat) ∨
    ((act = .regWrite 0x00 0x00000003 ∨ act = .regWrite 0x00 0x00000005) ∧ t.err = 0)

/-- R78, R64: a command's outcome depends on no byte of BUF outside the range it reads. Two states that differ only in
BUF, and agree on that range, end in states that differ only in BUF. -/
def Obligations.CommandsReadOnlyTheirRange : Prop :=
  ∀ (i : Instr) (s t t' : State) (m : Memory) (draw : Nat),
    (i = .tcLoadStr ∨ i = .crcUpdate ∨ i = .chunkNew ∨ i = .chunkDecode →
      ∀ x, s.src.toNat ≤ x → x < s.src.toNat + s.slen.toNat →
        State.byteAt { s with buf := m, draw := draw } x = s.byteAt x) →
    (i = .chunkEncode ∨ i = .chunkText →
      ∀ x, s.chAddr.toNat ≤ x → x < s.chAddr.toNat + s.chLen.toNat →
        State.byteAt { s with buf := m, draw := draw } x = s.byteAt x) →
    exec i s = .next t → exec i { s with buf := m, draw := draw } = .next t' →
    t' = { t with buf := t'.buf, draw := draw } ∧
    (i = .chunkEncode → t.err = 0 → ∀ x, s.dst.toNat ≤ x → x < s.dst.toNat + (12 + s.chLen.toNat) →
      t'.byteAt x = t.byteAt x)

/-- R108: no chunk command, type-code command or NOP reads or writes CRC_STATE: with another CRC_STATE it ends in the
same state but for that register, which it keeps. -/
def Obligations.StreamSurvivesOtherCommands : Prop :=
  ∀ (i : Instr) (s t : State) (r : Word), i ≠ .crcInit → i ≠ .crcUpdate → exec i s = .next t →
    t.crcState = s.crcState ∧ exec i { s with crcState := r } = .next { t with crcState := r }
end

