-- ==== Sys2Proof/Laws/Memory.lean ====
section
/-! SUPPORT. The written bytes of BUF: what a read gives after a write, and that every write keeps the canonical form. -/

namespace Sys2Proof.Machine

theorem Memory.find_write (x a : Nat) (b : Byte) (m : Memory) :
    Memory.find x (Memory.write a b m) = if x = a then some b else Memory.find x m := by
  induction m with
  | nil => simp [Memory.write, Memory.find, eq_comm]
  | cons c m ih =>
    obtain ⟨y, c⟩ := c
    simp only [Memory.write]
    split
    · simp only [Memory.find, eq_comm]
    · split
      · rename_i h; subst h; simp only [Memory.find, eq_comm]; split <;> rfl
      · rename_i h
        simp only [Memory.find, ih]
        by_cases hx : y = x
        · have : x ≠ a := fun e => h (by rw [← e, hx])
          simp [hx, this]
        · simp [hx]

theorem Memory.find_writeAll (x a : Nat) (bs : List Byte) (m : Memory) :
    Memory.find x (Memory.writeAll a bs m) =
      if h : a ≤ x ∧ x < a + bs.length then some (bs[x - a]'(by omega)) else Memory.find x m := by
  induction bs generalizing a m with
  | nil =>
    have : ¬ (a ≤ x ∧ x < a + ([] : List Byte).length) := by simp
    rw [dif_neg this, Memory.writeAll]
  | cons b bs ih =>
    rw [Memory.writeAll, ih]
    by_cases h1 : a + 1 ≤ x ∧ x < a + 1 + bs.length
    · have h2 : a ≤ x ∧ x < a + (b :: bs).length := by simp only [List.length_cons]; omega
      rw [dif_pos h1, dif_pos h2]
      have e : x - a = (x - (a + 1)) + 1 := by omega
      simp [e]
    · rw [dif_neg h1, Memory.find_write]
      by_cases hx : x = a
      · subst hx
        have h2 : x ≤ x ∧ x < x + (b :: bs).length := by simp
        rw [dif_pos h2, if_pos rfl]
        simp
      · have h2 : ¬ (a ≤ x ∧ x < a + (b :: bs).length) := by simp only [List.length_cons]; omega
        rw [dif_neg h2, if_neg hx]

theorem Memory.above_weaken {a x : Nat} (h : a ≤ x) {m : Memory} (hm : Memory.above x m = true) :
    Memory.above a m = true := by
  cases m with
  | nil => rfl
  | cons c m =>
    simp only [Memory.above, Bool.and_eq_true, decide_eq_true_eq] at hm ⊢
    exact ⟨by omega, hm.2⟩

theorem Memory.above_write {x a : Nat} (b : Byte) (h : x < a) {m : Memory} (hm : Memory.above x m = true) :
    Memory.above x (Memory.write a b m) = true := by
  induction m generalizing x with
  | nil => simp [Memory.write, Memory.above, h]
  | cons c m ih =>
    obtain ⟨y, c⟩ := c
    simp only [Memory.above, Bool.and_eq_true, decide_eq_true_eq] at hm
    simp only [Memory.write]
    split
    · rename_i hay
      simp [Memory.above, h, hay, hm.2]
    · split
      · rename_i e; subst e
        simp [Memory.above, hm.1, hm.2]
      · simp only [Memory.above, Bool.and_eq_true, decide_eq_true_eq]
        exact ⟨hm.1, ih (by omega) hm.2⟩

/-- A write keeps the canonical form. -/
theorem Memory.wf_write (a : Nat) (b : Byte) {m : Memory} (hm : Memory.wf m = true) :
    Memory.wf (Memory.write a b m) = true := by
  cases m with
  | nil => rfl
  | cons c m =>
    obtain ⟨y, c⟩ := c
    simp only [Memory.wf] at hm
    simp only [Memory.write]
    split
    · rename_i hay
      simp [Memory.wf, Memory.above, hay, hm]
    · split
      · rename_i e; subst e; exact hm
      · exact Memory.above_write b (by omega) hm

/-- Writing a sequence keeps the canonical form. -/
theorem Memory.wf_writeAll (a : Nat) (bs : List Byte) {m : Memory} (hm : Memory.wf m = true) :
    Memory.wf (Memory.writeAll a bs m) = true := by
  induction bs generalizing a m with
  | nil => exact hm
  | cons b bs ih => exact ih (a + 1) (Memory.wf_write a b hm)

/-- The reset memory is in canonical form. -/
theorem Memory.wf_reset (n d : Nat) : Memory.wf (State.atReset n d).buf = true := rfl

theorem Memory.find_of_above {x a : Nat} {m : Memory} (hm : Memory.above x m = true) (h : a ≤ x) :
    Memory.find a m = none := by
  induction m generalizing x with
  | nil => rfl
  | cons c m ih =>
    obtain ⟨y, c⟩ := c
    simp only [Memory.above, Bool.and_eq_true, decide_eq_true_eq] at hm
    rw [Memory.find, if_neg (by omega)]
    exact ih hm.2 (by omega)

/-- Two memories in canonical form that hold the same written bytes are the same data. -/
theorem Memory.ext_of_find {m m' : Memory} (hm : Memory.wf m = true) (hm' : Memory.wf m' = true)
    (h : ∀ a, Memory.find a m = Memory.find a m') : m = m' := by
  induction m generalizing m' with
  | nil =>
    cases m' with
    | nil => rfl
    | cons c m' => simpa [Memory.find] using h c.1
  | cons c m ih =>
    obtain ⟨x, c⟩ := c
    cases m' with
    | nil => simpa [Memory.find] using h x
    | cons d m' =>
      obtain ⟨y, d⟩ := d
      simp only [Memory.wf] at hm hm'
      have hx := h x
      have hy := h y
      have hxy : x = y := by
        by_contra hne
        rcases Nat.lt_or_ge x y with hlt | hge
        · rw [Memory.find, if_pos rfl, Memory.find, if_neg (Ne.symm hne), Memory.find_of_above hm' (by omega)] at hx
          exact absurd hx (by simp)
        · rw [Memory.find, if_neg hne, Memory.find_of_above hm (by omega), Memory.find, if_pos rfl] at hy
          exact absurd hy (by simp)
      subst hxy
      have hcd : c = d := by simpa [Memory.find] using hx
      subst hcd
      have hmw : Memory.wf m = true := by
        cases m with
        | nil => rfl
        | cons e m => simp only [Memory.above, Bool.and_eq_true] at hm; exact hm.2
      have hmw' : Memory.wf m' = true := by
        cases m' with
        | nil => rfl
        | cons e m => simp only [Memory.above, Bool.and_eq_true] at hm'; exact hm'.2
      rw [ih hmw hmw' (fun a => ?_)]
      by_cases ha : x = a
      · subst ha; rw [Memory.find_of_above hm le_rfl, Memory.find_of_above hm' le_rfl]
      · simpa [Memory.find, ha] using h a

end Sys2Proof.Machine
end

