-- ==== Sys2Proof/Laws/State.lean ====
section
/-! SUPPORT. One lemma per field per named update of State, all true by rfl. -/

namespace Sys2Proof.Machine

variable (s : State)

@[simp] theorem State.raiseAt_src (e : ErrorKind) (i : BitVec 2) : (s.raiseAt e i).src = s.src := rfl
@[simp] theorem State.raiseAt_slen (e : ErrorKind) (i : BitVec 2) : (s.raiseAt e i).slen = s.slen := rfl
@[simp] theorem State.raiseAt_dst (e : ErrorKind) (i : BitVec 2) : (s.raiseAt e i).dst = s.dst := rfl
@[simp] theorem State.raiseAt_typeIn (e : ErrorKind) (i : BitVec 2) : (s.raiseAt e i).typeIn = s.typeIn := rfl
@[simp] theorem State.raiseAt_typeReg (e : ErrorKind) (i : BitVec 2) : (s.raiseAt e i).typeReg = s.typeReg := rfl
@[simp] theorem State.raiseAt_tcValid (e : ErrorKind) (i : BitVec 2) : (s.raiseAt e i).tcValid = s.tcValid := rfl
@[simp] theorem State.raiseAt_chType (e : ErrorKind) (i : BitVec 2) : (s.raiseAt e i).chType = s.chType := rfl
@[simp] theorem State.raiseAt_chAddr (e : ErrorKind) (i : BitVec 2) : (s.raiseAt e i).chAddr = s.chAddr := rfl
@[simp] theorem State.raiseAt_chLen (e : ErrorKind) (i : BitVec 2) : (s.raiseAt e i).chLen = s.chLen := rfl
@[simp] theorem State.raiseAt_chCrc (e : ErrorKind) (i : BitVec 2) : (s.raiseAt e i).chCrc = s.chCrc := rfl
@[simp] theorem State.raiseAt_chValid (e : ErrorKind) (i : BitVec 2) : (s.raiseAt e i).chValid = s.chValid := rfl
@[simp] theorem State.raiseAt_outLen (e : ErrorKind) (i : BitVec 2) : (s.raiseAt e i).outLen = s.outLen := rfl
@[simp] theorem State.raiseAt_crcState (e : ErrorKind) (i : BitVec 2) : (s.raiseAt e i).crcState = s.crcState := rfl
@[simp] theorem State.raiseAt_err (e : ErrorKind) (i : BitVec 2) : (s.raiseAt e i).err = e.code := rfl
@[simp] theorem State.raiseAt_errIdx (e : ErrorKind) (i : BitVec 2) : (s.raiseAt e i).errIdx = i := rfl
@[simp] theorem State.raiseAt_buf (e : ErrorKind) (i : BitVec 2) : (s.raiseAt e i).buf = s.buf := rfl
@[simp] theorem State.raiseAt_bufSize (e : ErrorKind) (i : BitVec 2) : (s.raiseAt e i).bufSize = s.bufSize := rfl
@[simp] theorem State.raiseAt_draw (e : ErrorKind) (i : BitVec 2) : (s.raiseAt e i).draw = s.draw := rfl
@[simp] theorem State.raiseAt_host (e : ErrorKind) (i : BitVec 2) : (s.raiseAt e i).host = s.host := rfl
@[simp] theorem State.raiseAt_answer (e : ErrorKind) (i : BitVec 2) : (s.raiseAt e i).answer = s.answer := rfl

@[simp] theorem State.raise_src (e : ErrorKind) : (s.raise e).src = s.src := rfl
@[simp] theorem State.raise_slen (e : ErrorKind) : (s.raise e).slen = s.slen := rfl
@[simp] theorem State.raise_dst (e : ErrorKind) : (s.raise e).dst = s.dst := rfl
@[simp] theorem State.raise_typeIn (e : ErrorKind) : (s.raise e).typeIn = s.typeIn := rfl
@[simp] theorem State.raise_typeReg (e : ErrorKind) : (s.raise e).typeReg = s.typeReg := rfl
@[simp] theorem State.raise_tcValid (e : ErrorKind) : (s.raise e).tcValid = s.tcValid := rfl
@[simp] theorem State.raise_chType (e : ErrorKind) : (s.raise e).chType = s.chType := rfl
@[simp] theorem State.raise_chAddr (e : ErrorKind) : (s.raise e).chAddr = s.chAddr := rfl
@[simp] theorem State.raise_chLen (e : ErrorKind) : (s.raise e).chLen = s.chLen := rfl
@[simp] theorem State.raise_chCrc (e : ErrorKind) : (s.raise e).chCrc = s.chCrc := rfl
@[simp] theorem State.raise_chValid (e : ErrorKind) : (s.raise e).chValid = s.chValid := rfl
@[simp] theorem State.raise_outLen (e : ErrorKind) : (s.raise e).outLen = s.outLen := rfl
@[simp] theorem State.raise_crcState (e : ErrorKind) : (s.raise e).crcState = s.crcState := rfl
@[simp] theorem State.raise_err (e : ErrorKind) : (s.raise e).err = e.code := rfl
@[simp] theorem State.raise_errIdx (e : ErrorKind) : (s.raise e).errIdx = 0 := rfl
@[simp] theorem State.raise_buf (e : ErrorKind) : (s.raise e).buf = s.buf := rfl
@[simp] theorem State.raise_bufSize (e : ErrorKind) : (s.raise e).bufSize = s.bufSize := rfl
@[simp] theorem State.raise_draw (e : ErrorKind) : (s.raise e).draw = s.draw := rfl
@[simp] theorem State.raise_host (e : ErrorKind) : (s.raise e).host = s.host := rfl
@[simp] theorem State.raise_answer (e : ErrorKind) : (s.raise e).answer = s.answer := rfl

@[simp] theorem State.succeed_src : (s.succeed).src = s.src := rfl
@[simp] theorem State.succeed_slen : (s.succeed).slen = s.slen := rfl
@[simp] theorem State.succeed_dst : (s.succeed).dst = s.dst := rfl
@[simp] theorem State.succeed_typeIn : (s.succeed).typeIn = s.typeIn := rfl
@[simp] theorem State.succeed_typeReg : (s.succeed).typeReg = s.typeReg := rfl
@[simp] theorem State.succeed_tcValid : (s.succeed).tcValid = s.tcValid := rfl
@[simp] theorem State.succeed_chType : (s.succeed).chType = s.chType := rfl
@[simp] theorem State.succeed_chAddr : (s.succeed).chAddr = s.chAddr := rfl
@[simp] theorem State.succeed_chLen : (s.succeed).chLen = s.chLen := rfl
@[simp] theorem State.succeed_chCrc : (s.succeed).chCrc = s.chCrc := rfl
@[simp] theorem State.succeed_chValid : (s.succeed).chValid = s.chValid := rfl
@[simp] theorem State.succeed_outLen : (s.succeed).outLen = s.outLen := rfl
@[simp] theorem State.succeed_crcState : (s.succeed).crcState = s.crcState := rfl
@[simp] theorem State.succeed_err : (s.succeed).err = 0 := rfl
@[simp] theorem State.succeed_errIdx : (s.succeed).errIdx = 0 := rfl
@[simp] theorem State.succeed_buf : (s.succeed).buf = s.buf := rfl
@[simp] theorem State.succeed_bufSize : (s.succeed).bufSize = s.bufSize := rfl
@[simp] theorem State.succeed_draw : (s.succeed).draw = s.draw := rfl
@[simp] theorem State.succeed_host : (s.succeed).host = s.host := rfl
@[simp] theorem State.succeed_answer : (s.succeed).answer = s.answer := rfl

@[simp] theorem State.loadType_src (t : Word) : (s.loadType t).src = s.src := rfl
@[simp] theorem State.loadType_slen (t : Word) : (s.loadType t).slen = s.slen := rfl
@[simp] theorem State.loadType_dst (t : Word) : (s.loadType t).dst = s.dst := rfl
@[simp] theorem State.loadType_typeIn (t : Word) : (s.loadType t).typeIn = s.typeIn := rfl
@[simp] theorem State.loadType_typeReg (t : Word) : (s.loadType t).typeReg = t := rfl
@[simp] theorem State.loadType_tcValid (t : Word) : (s.loadType t).tcValid = true := rfl
@[simp] theorem State.loadType_chType (t : Word) : (s.loadType t).chType = s.chType := rfl
@[simp] theorem State.loadType_chAddr (t : Word) : (s.loadType t).chAddr = s.chAddr := rfl
@[simp] theorem State.loadType_chLen (t : Word) : (s.loadType t).chLen = s.chLen := rfl
@[simp] theorem State.loadType_chCrc (t : Word) : (s.loadType t).chCrc = s.chCrc := rfl
@[simp] theorem State.loadType_chValid (t : Word) : (s.loadType t).chValid = s.chValid := rfl
@[simp] theorem State.loadType_outLen (t : Word) : (s.loadType t).outLen = s.outLen := rfl
@[simp] theorem State.loadType_crcState (t : Word) : (s.loadType t).crcState = s.crcState := rfl
@[simp] theorem State.loadType_err (t : Word) : (s.loadType t).err = s.err := rfl
@[simp] theorem State.loadType_errIdx (t : Word) : (s.loadType t).errIdx = s.errIdx := rfl
@[simp] theorem State.loadType_buf (t : Word) : (s.loadType t).buf = s.buf := rfl
@[simp] theorem State.loadType_bufSize (t : Word) : (s.loadType t).bufSize = s.bufSize := rfl
@[simp] theorem State.loadType_draw (t : Word) : (s.loadType t).draw = s.draw := rfl
@[simp] theorem State.loadType_host (t : Word) : (s.loadType t).host = s.host := rfl
@[simp] theorem State.loadType_answer (t : Word) : (s.loadType t).answer = s.answer := rfl

@[simp] theorem State.bindChunk_src (t a n c : Word) : (s.bindChunk t a n c).src = s.src := rfl
@[simp] theorem State.bindChunk_slen (t a n c : Word) : (s.bindChunk t a n c).slen = s.slen := rfl
@[simp] theorem State.bindChunk_dst (t a n c : Word) : (s.bindChunk t a n c).dst = s.dst := rfl
@[simp] theorem State.bindChunk_typeIn (t a n c : Word) : (s.bindChunk t a n c).typeIn = s.typeIn := rfl
@[simp] theorem State.bindChunk_typeReg (t a n c : Word) : (s.bindChunk t a n c).typeReg = s.typeReg := rfl
@[simp] theorem State.bindChunk_tcValid (t a n c : Word) : (s.bindChunk t a n c).tcValid = s.tcValid := rfl
@[simp] theorem State.bindChunk_chType (t a n c : Word) : (s.bindChunk t a n c).chType = t := rfl
@[simp] theorem State.bindChunk_chAddr (t a n c : Word) : (s.bindChunk t a n c).chAddr = a := rfl
@[simp] theorem State.bindChunk_chLen (t a n c : Word) : (s.bindChunk t a n c).chLen = n := rfl
@[simp] theorem State.bindChunk_chCrc (t a n c : Word) : (s.bindChunk t a n c).chCrc = c := rfl
@[simp] theorem State.bindChunk_chValid (t a n c : Word) : (s.bindChunk t a n c).chValid = true := rfl
@[simp] theorem State.bindChunk_outLen (t a n c : Word) : (s.bindChunk t a n c).outLen = s.outLen := rfl
@[simp] theorem State.bindChunk_crcState (t a n c : Word) : (s.bindChunk t a n c).crcState = s.crcState := rfl
@[simp] theorem State.bindChunk_err (t a n c : Word) : (s.bindChunk t a n c).err = s.err := rfl
@[simp] theorem State.bindChunk_errIdx (t a n c : Word) : (s.bindChunk t a n c).errIdx = s.errIdx := rfl
@[simp] theorem State.bindChunk_buf (t a n c : Word) : (s.bindChunk t a n c).buf = s.buf := rfl
@[simp] theorem State.bindChunk_bufSize (t a n c : Word) : (s.bindChunk t a n c).bufSize = s.bufSize := rfl
@[simp] theorem State.bindChunk_draw (t a n c : Word) : (s.bindChunk t a n c).draw = s.draw := rfl
@[simp] theorem State.bindChunk_host (t a n c : Word) : (s.bindChunk t a n c).host = s.host := rfl
@[simp] theorem State.bindChunk_answer (t a n c : Word) : (s.bindChunk t a n c).answer = s.answer := rfl

@[simp] theorem State.setCrcState_src (r : Word) : (s.setCrcState r).src = s.src := rfl
@[simp] theorem State.setCrcState_slen (r : Word) : (s.setCrcState r).slen = s.slen := rfl
@[simp] theorem State.setCrcState_dst (r : Word) : (s.setCrcState r).dst = s.dst := rfl
@[simp] theorem State.setCrcState_typeIn (r : Word) : (s.setCrcState r).typeIn = s.typeIn := rfl
@[simp] theorem State.setCrcState_typeReg (r : Word) : (s.setCrcState r).typeReg = s.typeReg := rfl
@[simp] theorem State.setCrcState_tcValid (r : Word) : (s.setCrcState r).tcValid = s.tcValid := rfl
@[simp] theorem State.setCrcState_chType (r : Word) : (s.setCrcState r).chType = s.chType := rfl
@[simp] theorem State.setCrcState_chAddr (r : Word) : (s.setCrcState r).chAddr = s.chAddr := rfl
@[simp] theorem State.setCrcState_chLen (r : Word) : (s.setCrcState r).chLen = s.chLen := rfl
@[simp] theorem State.setCrcState_chCrc (r : Word) : (s.setCrcState r).chCrc = s.chCrc := rfl
@[simp] theorem State.setCrcState_chValid (r : Word) : (s.setCrcState r).chValid = s.chValid := rfl
@[simp] theorem State.setCrcState_outLen (r : Word) : (s.setCrcState r).outLen = s.outLen := rfl
@[simp] theorem State.setCrcState_crcState (r : Word) : (s.setCrcState r).crcState = r := rfl
@[simp] theorem State.setCrcState_err (r : Word) : (s.setCrcState r).err = s.err := rfl
@[simp] theorem State.setCrcState_errIdx (r : Word) : (s.setCrcState r).errIdx = s.errIdx := rfl
@[simp] theorem State.setCrcState_buf (r : Word) : (s.setCrcState r).buf = s.buf := rfl
@[simp] theorem State.setCrcState_bufSize (r : Word) : (s.setCrcState r).bufSize = s.bufSize := rfl
@[simp] theorem State.setCrcState_draw (r : Word) : (s.setCrcState r).draw = s.draw := rfl
@[simp] theorem State.setCrcState_host (r : Word) : (s.setCrcState r).host = s.host := rfl
@[simp] theorem State.setCrcState_answer (r : Word) : (s.setCrcState r).answer = s.answer := rfl

@[simp] theorem State.setOutLen_src (n : Word) : (s.setOutLen n).src = s.src := rfl
@[simp] theorem State.setOutLen_slen (n : Word) : (s.setOutLen n).slen = s.slen := rfl
@[simp] theorem State.setOutLen_dst (n : Word) : (s.setOutLen n).dst = s.dst := rfl
@[simp] theorem State.setOutLen_typeIn (n : Word) : (s.setOutLen n).typeIn = s.typeIn := rfl
@[simp] theorem State.setOutLen_typeReg (n : Word) : (s.setOutLen n).typeReg = s.typeReg := rfl
@[simp] theorem State.setOutLen_tcValid (n : Word) : (s.setOutLen n).tcValid = s.tcValid := rfl
@[simp] theorem State.setOutLen_chType (n : Word) : (s.setOutLen n).chType = s.chType := rfl
@[simp] theorem State.setOutLen_chAddr (n : Word) : (s.setOutLen n).chAddr = s.chAddr := rfl
@[simp] theorem State.setOutLen_chLen (n : Word) : (s.setOutLen n).chLen = s.chLen := rfl
@[simp] theorem State.setOutLen_chCrc (n : Word) : (s.setOutLen n).chCrc = s.chCrc := rfl
@[simp] theorem State.setOutLen_chValid (n : Word) : (s.setOutLen n).chValid = s.chValid := rfl
@[simp] theorem State.setOutLen_outLen (n : Word) : (s.setOutLen n).outLen = n := rfl
@[simp] theorem State.setOutLen_crcState (n : Word) : (s.setOutLen n).crcState = s.crcState := rfl
@[simp] theorem State.setOutLen_err (n : Word) : (s.setOutLen n).err = s.err := rfl
@[simp] theorem State.setOutLen_errIdx (n : Word) : (s.setOutLen n).errIdx = s.errIdx := rfl
@[simp] theorem State.setOutLen_buf (n : Word) : (s.setOutLen n).buf = s.buf := rfl
@[simp] theorem State.setOutLen_bufSize (n : Word) : (s.setOutLen n).bufSize = s.bufSize := rfl
@[simp] theorem State.setOutLen_draw (n : Word) : (s.setOutLen n).draw = s.draw := rfl
@[simp] theorem State.setOutLen_host (n : Word) : (s.setOutLen n).host = s.host := rfl
@[simp] theorem State.setOutLen_answer (n : Word) : (s.setOutLen n).answer = s.answer := rfl

@[simp] theorem State.storeBytes_src (a : Nat) (bs : List Byte) : (s.storeBytes a bs).src = s.src := rfl
@[simp] theorem State.storeBytes_slen (a : Nat) (bs : List Byte) : (s.storeBytes a bs).slen = s.slen := rfl
@[simp] theorem State.storeBytes_dst (a : Nat) (bs : List Byte) : (s.storeBytes a bs).dst = s.dst := rfl
@[simp] theorem State.storeBytes_typeIn (a : Nat) (bs : List Byte) : (s.storeBytes a bs).typeIn = s.typeIn := rfl
@[simp] theorem State.storeBytes_typeReg (a : Nat) (bs : List Byte) : (s.storeBytes a bs).typeReg = s.typeReg := rfl
@[simp] theorem State.storeBytes_tcValid (a : Nat) (bs : List Byte) : (s.storeBytes a bs).tcValid = s.tcValid := rfl
@[simp] theorem State.storeBytes_chType (a : Nat) (bs : List Byte) : (s.storeBytes a bs).chType = s.chType := rfl
@[simp] theorem State.storeBytes_chAddr (a : Nat) (bs : List Byte) : (s.storeBytes a bs).chAddr = s.chAddr := rfl
@[simp] theorem State.storeBytes_chLen (a : Nat) (bs : List Byte) : (s.storeBytes a bs).chLen = s.chLen := rfl
@[simp] theorem State.storeBytes_chCrc (a : Nat) (bs : List Byte) : (s.storeBytes a bs).chCrc = s.chCrc := rfl
@[simp] theorem State.storeBytes_chValid (a : Nat) (bs : List Byte) : (s.storeBytes a bs).chValid = s.chValid := rfl
@[simp] theorem State.storeBytes_outLen (a : Nat) (bs : List Byte) : (s.storeBytes a bs).outLen = s.outLen := rfl
@[simp] theorem State.storeBytes_crcState (a : Nat) (bs : List Byte) : (s.storeBytes a bs).crcState = s.crcState := rfl
@[simp] theorem State.storeBytes_err (a : Nat) (bs : List Byte) : (s.storeBytes a bs).err = s.err := rfl
@[simp] theorem State.storeBytes_errIdx (a : Nat) (bs : List Byte) : (s.storeBytes a bs).errIdx = s.errIdx := rfl
@[simp] theorem State.storeBytes_buf (a : Nat) (bs : List Byte) : (s.storeBytes a bs).buf = Memory.writeAll a bs s.buf := rfl
@[simp] theorem State.storeBytes_bufSize (a : Nat) (bs : List Byte) : (s.storeBytes a bs).bufSize = s.bufSize := rfl
@[simp] theorem State.storeBytes_draw (a : Nat) (bs : List Byte) : (s.storeBytes a bs).draw = s.draw := rfl
@[simp] theorem State.storeBytes_host (a : Nat) (bs : List Byte) : (s.storeBytes a bs).host = s.host := rfl
@[simp] theorem State.storeBytes_answer (a : Nat) (bs : List Byte) : (s.storeBytes a bs).answer = s.answer := rfl

@[simp] theorem State.invalidate_src (a n : Nat) : (s.invalidate a n).src = s.src := rfl
@[simp] theorem State.invalidate_slen (a n : Nat) : (s.invalidate a n).slen = s.slen := rfl
@[simp] theorem State.invalidate_dst (a n : Nat) : (s.invalidate a n).dst = s.dst := rfl
@[simp] theorem State.invalidate_typeIn (a n : Nat) : (s.invalidate a n).typeIn = s.typeIn := rfl
@[simp] theorem State.invalidate_typeReg (a n : Nat) : (s.invalidate a n).typeReg = s.typeReg := rfl
@[simp] theorem State.invalidate_tcValid (a n : Nat) : (s.invalidate a n).tcValid = s.tcValid := rfl
@[simp] theorem State.invalidate_chType (a n : Nat) : (s.invalidate a n).chType = s.chType := rfl
@[simp] theorem State.invalidate_chAddr (a n : Nat) : (s.invalidate a n).chAddr = s.chAddr := rfl
@[simp] theorem State.invalidate_chLen (a n : Nat) : (s.invalidate a n).chLen = s.chLen := rfl
@[simp] theorem State.invalidate_chCrc (a n : Nat) : (s.invalidate a n).chCrc = s.chCrc := rfl
@[simp] theorem State.invalidate_chValid (a n : Nat) : (s.invalidate a n).chValid = (s.chValid && !overlaps a n s.chAddr.toNat s.chLen.toNat) := rfl
@[simp] theorem State.invalidate_outLen (a n : Nat) : (s.invalidate a n).outLen = s.outLen := rfl
@[simp] theorem State.invalidate_crcState (a n : Nat) : (s.invalidate a n).crcState = s.crcState := rfl
@[simp] theorem State.invalidate_err (a n : Nat) : (s.invalidate a n).err = s.err := rfl
@[simp] theorem State.invalidate_errIdx (a n : Nat) : (s.invalidate a n).errIdx = s.errIdx := rfl
@[simp] theorem State.invalidate_buf (a n : Nat) : (s.invalidate a n).buf = s.buf := rfl
@[simp] theorem State.invalidate_bufSize (a n : Nat) : (s.invalidate a n).bufSize = s.bufSize := rfl
@[simp] theorem State.invalidate_draw (a n : Nat) : (s.invalidate a n).draw = s.draw := rfl
@[simp] theorem State.invalidate_host (a n : Nat) : (s.invalidate a n).host = s.host := rfl
@[simp] theorem State.invalidate_answer (a n : Nat) : (s.invalidate a n).answer = s.answer := rfl

@[simp] theorem State.memWrite_src (a : Nat) (bs : List Byte) : (s.memWrite a bs).src = s.src := rfl
@[simp] theorem State.memWrite_slen (a : Nat) (bs : List Byte) : (s.memWrite a bs).slen = s.slen := rfl
@[simp] theorem State.memWrite_dst (a : Nat) (bs : List Byte) : (s.memWrite a bs).dst = s.dst := rfl
@[simp] theorem State.memWrite_typeIn (a : Nat) (bs : List Byte) : (s.memWrite a bs).typeIn = s.typeIn := rfl
@[simp] theorem State.memWrite_typeReg (a : Nat) (bs : List Byte) : (s.memWrite a bs).typeReg = s.typeReg := rfl
@[simp] theorem State.memWrite_tcValid (a : Nat) (bs : List Byte) : (s.memWrite a bs).tcValid = s.tcValid := rfl
@[simp] theorem State.memWrite_chType (a : Nat) (bs : List Byte) : (s.memWrite a bs).chType = s.chType := rfl
@[simp] theorem State.memWrite_chAddr (a : Nat) (bs : List Byte) : (s.memWrite a bs).chAddr = s.chAddr := rfl
@[simp] theorem State.memWrite_chLen (a : Nat) (bs : List Byte) : (s.memWrite a bs).chLen = s.chLen := rfl
@[simp] theorem State.memWrite_chCrc (a : Nat) (bs : List Byte) : (s.memWrite a bs).chCrc = s.chCrc := rfl
@[simp] theorem State.memWrite_chValid (a : Nat) (bs : List Byte) : (s.memWrite a bs).chValid = (s.chValid && !overlaps a bs.length s.chAddr.toNat s.chLen.toNat) := rfl
@[simp] theorem State.memWrite_outLen (a : Nat) (bs : List Byte) : (s.memWrite a bs).outLen = s.outLen := rfl
@[simp] theorem State.memWrite_crcState (a : Nat) (bs : List Byte) : (s.memWrite a bs).crcState = s.crcState := rfl
@[simp] theorem State.memWrite_err (a : Nat) (bs : List Byte) : (s.memWrite a bs).err = s.err := rfl
@[simp] theorem State.memWrite_errIdx (a : Nat) (bs : List Byte) : (s.memWrite a bs).errIdx = s.errIdx := rfl
@[simp] theorem State.memWrite_buf (a : Nat) (bs : List Byte) : (s.memWrite a bs).buf = Memory.writeAll a bs s.buf := rfl
@[simp] theorem State.memWrite_bufSize (a : Nat) (bs : List Byte) : (s.memWrite a bs).bufSize = s.bufSize := rfl
@[simp] theorem State.memWrite_draw (a : Nat) (bs : List Byte) : (s.memWrite a bs).draw = s.draw := rfl
@[simp] theorem State.memWrite_host (a : Nat) (bs : List Byte) : (s.memWrite a bs).host = s.host := rfl
@[simp] theorem State.memWrite_answer (a : Nat) (bs : List Byte) : (s.memWrite a bs).answer = s.answer := rfl

@[simp] theorem State.answered_src (r : HostAnswer) : (s.answered r).src = s.src := rfl
@[simp] theorem State.answered_slen (r : HostAnswer) : (s.answered r).slen = s.slen := rfl
@[simp] theorem State.answered_dst (r : HostAnswer) : (s.answered r).dst = s.dst := rfl
@[simp] theorem State.answered_typeIn (r : HostAnswer) : (s.answered r).typeIn = s.typeIn := rfl
@[simp] theorem State.answered_typeReg (r : HostAnswer) : (s.answered r).typeReg = s.typeReg := rfl
@[simp] theorem State.answered_tcValid (r : HostAnswer) : (s.answered r).tcValid = s.tcValid := rfl
@[simp] theorem State.answered_chType (r : HostAnswer) : (s.answered r).chType = s.chType := rfl
@[simp] theorem State.answered_chAddr (r : HostAnswer) : (s.answered r).chAddr = s.chAddr := rfl
@[simp] theorem State.answered_chLen (r : HostAnswer) : (s.answered r).chLen = s.chLen := rfl
@[simp] theorem State.answered_chCrc (r : HostAnswer) : (s.answered r).chCrc = s.chCrc := rfl
@[simp] theorem State.answered_chValid (r : HostAnswer) : (s.answered r).chValid = s.chValid := rfl
@[simp] theorem State.answered_outLen (r : HostAnswer) : (s.answered r).outLen = s.outLen := rfl
@[simp] theorem State.answered_crcState (r : HostAnswer) : (s.answered r).crcState = s.crcState := rfl
@[simp] theorem State.answered_err (r : HostAnswer) : (s.answered r).err = s.err := rfl
@[simp] theorem State.answered_errIdx (r : HostAnswer) : (s.answered r).errIdx = s.errIdx := rfl
@[simp] theorem State.answered_buf (r : HostAnswer) : (s.answered r).buf = s.buf := rfl
@[simp] theorem State.answered_bufSize (r : HostAnswer) : (s.answered r).bufSize = s.bufSize := rfl
@[simp] theorem State.answered_draw (r : HostAnswer) : (s.answered r).draw = s.draw := rfl
@[simp] theorem State.answered_host (r : HostAnswer) : (s.answered r).host = s.host := rfl
@[simp] theorem State.answered_answer (r : HostAnswer) : (s.answered r).answer = r := rfl

@[simp] theorem State.issue_src (rest : List HostAction) : (s.issue rest).src = s.src := rfl
@[simp] theorem State.issue_slen (rest : List HostAction) : (s.issue rest).slen = s.slen := rfl
@[simp] theorem State.issue_dst (rest : List HostAction) : (s.issue rest).dst = s.dst := rfl
@[simp] theorem State.issue_typeIn (rest : List HostAction) : (s.issue rest).typeIn = s.typeIn := rfl
@[simp] theorem State.issue_typeReg (rest : List HostAction) : (s.issue rest).typeReg = s.typeReg := rfl
@[simp] theorem State.issue_tcValid (rest : List HostAction) : (s.issue rest).tcValid = s.tcValid := rfl
@[simp] theorem State.issue_chType (rest : List HostAction) : (s.issue rest).chType = s.chType := rfl
@[simp] theorem State.issue_chAddr (rest : List HostAction) : (s.issue rest).chAddr = s.chAddr := rfl
@[simp] theorem State.issue_chLen (rest : List HostAction) : (s.issue rest).chLen = s.chLen := rfl
@[simp] theorem State.issue_chCrc (rest : List HostAction) : (s.issue rest).chCrc = s.chCrc := rfl
@[simp] theorem State.issue_chValid (rest : List HostAction) : (s.issue rest).chValid = s.chValid := rfl
@[simp] theorem State.issue_outLen (rest : List HostAction) : (s.issue rest).outLen = s.outLen := rfl
@[simp] theorem State.issue_crcState (rest : List HostAction) : (s.issue rest).crcState = s.crcState := rfl
@[simp] theorem State.issue_err (rest : List HostAction) : (s.issue rest).err = s.err := rfl
@[simp] theorem State.issue_errIdx (rest : List HostAction) : (s.issue rest).errIdx = s.errIdx := rfl
@[simp] theorem State.issue_buf (rest : List HostAction) : (s.issue rest).buf = s.buf := rfl
@[simp] theorem State.issue_bufSize (rest : List HostAction) : (s.issue rest).bufSize = s.bufSize := rfl
@[simp] theorem State.issue_draw (rest : List HostAction) : (s.issue rest).draw = s.draw := rfl
@[simp] theorem State.issue_host (rest : List HostAction) : (s.issue rest).host = rest := rfl
@[simp] theorem State.issue_answer (rest : List HostAction) : (s.issue rest).answer = s.answer := rfl

@[simp] theorem State.resetCore_src : (s.resetCore).src = 0 := rfl
@[simp] theorem State.resetCore_slen : (s.resetCore).slen = 0 := rfl
@[simp] theorem State.resetCore_dst : (s.resetCore).dst = 0 := rfl
@[simp] theorem State.resetCore_typeIn : (s.resetCore).typeIn = 0 := rfl
@[simp] theorem State.resetCore_typeReg : (s.resetCore).typeReg = 0 := rfl
@[simp] theorem State.resetCore_tcValid : (s.resetCore).tcValid = false := rfl
@[simp] theorem State.resetCore_chType : (s.resetCore).chType = 0 := rfl
@[simp] theorem State.resetCore_chAddr : (s.resetCore).chAddr = 0 := rfl
@[simp] theorem State.resetCore_chLen : (s.resetCore).chLen = 0 := rfl
@[simp] theorem State.resetCore_chCrc : (s.resetCore).chCrc = 0 := rfl
@[simp] theorem State.resetCore_chValid : (s.resetCore).chValid = false := rfl
@[simp] theorem State.resetCore_outLen : (s.resetCore).outLen = 0 := rfl
@[simp] theorem State.resetCore_crcState : (s.resetCore).crcState = 0xFFFFFFFF := rfl
@[simp] theorem State.resetCore_err : (s.resetCore).err = 0 := rfl
@[simp] theorem State.resetCore_errIdx : (s.resetCore).errIdx = 0 := rfl
@[simp] theorem State.resetCore_buf : (s.resetCore).buf = [] := rfl
@[simp] theorem State.resetCore_bufSize : (s.resetCore).bufSize = s.bufSize := rfl
@[simp] theorem State.resetCore_draw : (s.resetCore).draw = (s.draw + 1) := rfl
@[simp] theorem State.resetCore_host : (s.resetCore).host = s.host := rfl
@[simp] theorem State.resetCore_answer : (s.resetCore).answer = s.answer := rfl

end Sys2Proof.Machine
end

