-- ==== Sys2Proof/Laws/Ops.lean ====
section
/-! SUPPORT. One spec lemma for each shared operation: BUF reads and writes, the letter scan, and what the two outcomes of
a command leave of BUF. -/

namespace Sys2Proof.Machine

open Sys2Proof.Safety

/-- Two states with the same written bytes and the same draw hold the same byte at every address. -/
theorem State.byteAt_congr {s t : State} (hb : t.buf = s.buf) (hd : t.draw = s.draw) (a : Nat) :
    t.byteAt a = s.byteAt a := by
  simp only [State.byteAt, hb, hd]

@[simp] theorem State.byteAt_raiseAt (s : State) (e : ErrorKind) (i : BitVec 2) (a : Nat) :
    (s.raiseAt e i).byteAt a = s.byteAt a := rfl
@[simp] theorem State.byteAt_raise (s : State) (e : ErrorKind) (a : Nat) : (s.raise e).byteAt a = s.byteAt a := rfl
@[simp] theorem State.byteAt_succeed (s : State) (a : Nat) : s.succeed.byteAt a = s.byteAt a := rfl
@[simp] theorem State.byteAt_loadType (s : State) (t : Word) (a : Nat) : (s.loadType t).byteAt a = s.byteAt a := rfl
@[simp] theorem State.byteAt_bindChunk (s : State) (t x n c : Word) (a : Nat) :
    (s.bindChunk t x n c).byteAt a = s.byteAt a := rfl
@[simp] theorem State.byteAt_setCrcState (s : State) (r : Word) (a : Nat) :
    (s.setCrcState r).byteAt a = s.byteAt a := rfl
@[simp] theorem State.byteAt_setOutLen (s : State) (n : Word) (a : Nat) : (s.setOutLen n).byteAt a = s.byteAt a := rfl
@[simp] theorem State.byteAt_answered (s : State) (r : HostAnswer) (a : Nat) :
    (s.answered r).byteAt a = s.byteAt a := rfl
@[simp] theorem State.byteAt_issue (s : State) (r : List HostAction) (a : Nat) : (s.issue r).byteAt a = s.byteAt a := rfl

/-- Everything MemWrite does to the bytes of BUF: the written range holds the sequence, the rest is as before. -/
theorem State.byteAt_memWrite (s : State) (a : Nat) (bs : List Byte) (x : Nat) :
    (s.memWrite a bs).byteAt x =
      if h : a ≤ x ∧ x < a + bs.length then bs[x - a]'(by omega) else s.byteAt x := by
  simp only [State.byteAt, State.memWrite_buf, State.memWrite_draw, Memory.find_writeAll]
  by_cases h : a ≤ x ∧ x < a + bs.length
  · simp only [dif_pos h]
  · simp only [dif_neg h]

@[simp] theorem State.memRead_length (s : State) (a n : Nat) : (s.memRead a n).length = n := by
  induction n generalizing a with
  | zero => rfl
  | succ n ih => simp [State.memRead, ih]

/-- MemRead is the byte-by-byte read of the range. -/
theorem State.memRead_eq_bytesFrom (s : State) (a n : Nat) : s.memRead a n = bytesFrom s a n := by
  induction n generalizing a with
  | zero => rfl
  | succ n ih =>
    rw [State.memRead, ih, bytesFrom, bytesFrom, List.range_succ_eq_map, List.map_cons, List.map_map]
    congr 1
    apply List.map_congr_left
    intro i _
    simp only [Function.comp, Nat.succ_eq_add_one]
    congr 1
    omega

@[simp] theorem bytesFrom_length (s : State) (a n : Nat) : (bytesFrom s a n).length = n := by simp [bytesFrom]

theorem bytesFrom_getElem (s : State) (a n i : Nat) (h : i < (bytesFrom s a n).length) :
    (bytesFrom s a n)[i] = s.byteAt (a + i) := by simp [bytesFrom]

theorem bytesFrom_congr {s t : State} {a n : Nat} (h : ∀ x, a ≤ x → x < a + n → s.byteAt x = t.byteAt x) :
    bytesFrom s a n = bytesFrom t a n := by
  apply List.map_congr_left
  intro i hi
  have := List.mem_range.mp hi
  exact h _ (by omega) (by omega)

theorem bytesFrom_append (s : State) (a n m : Nat) :
    bytesFrom s a (n + m) = bytesFrom s a n ++ bytesFrom s (a + n) m := by
  simp only [bytesFrom, List.range_add, List.map_append, List.map_map]
  congr 1
  apply List.map_congr_left
  intro i _
  simp only [Function.comp]
  congr 1
  omega

/-- A range that a MemWrite covers exactly reads back as the sequence. -/
theorem bytesFrom_memWrite (s : State) (a : Nat) (bs : List Byte) :
    bytesFrom (s.memWrite a bs) a bs.length = bs := by
  apply List.ext_getElem (by simp)
  intro i h1 h2
  rw [bytesFrom_getElem, State.byteAt_memWrite, dif_pos (by omega)]
  simp

theorem inBounds_iff (s : State) (a n : Nat) : s.inBounds a n = true ↔ a + n ≤ s.bufSize := by
  simp [State.inBounds]

theorem overlaps_iff (a n c m : Nat) : overlaps a n c m = true ↔ 1 ≤ n ∧ 1 ≤ m ∧ a < c + m ∧ c < a + n := by
  simp [overlaps]

theorem isLetter_iff (b : Byte) : isLetter b = true ↔ IsLetter b := by
  simp [isLetter, IsLetter, BitVec.le_def]

/-- The fold over a concatenation (R106). -/
theorem crcFold_append (s t : List Byte) (r : Word) : crcFold (s ++ t) r = crcFold t (crcFold s r) := by
  induction s generalizing r with
  | nil => rfl
  | cons b s ih => exact ih _

/-- The scan of R121 over a packed type code, with numbers. -/
theorem validate_none_iff (t : Word) : validate (bytesOf t) = none ↔ LettersOnly t := by
  have hb : bytesOf t = [typeByte t 0, typeByte t 1, typeByte t 2, typeByte t 3] := rfl
  have hl : LettersOnly t ↔ IsLetter (typeByte t 0) ∧ IsLetter (typeByte t 1) ∧ IsLetter (typeByte t 2) ∧
      IsLetter (typeByte t 3) := by
    constructor
    · intro h; exact ⟨h 0 (by omega), h 1 (by omega), h 2 (by omega), h 3 (by omega)⟩
    · rintro ⟨a, b, c, d⟩ k hk
      interval_cases k <;> assumption
  rw [hl, hb]
  simp only [validate, firstNonLetter, ← isLetter_iff]
  cases isLetter (typeByte t 0) <;> cases isLetter (typeByte t 1) <;> cases isLetter (typeByte t 2) <;>
    cases isLetter (typeByte t 3) <;> simp

theorem validate_of_first {t : Word} {k : Nat} (h : FirstNonLetterAt t k) :
    validate (bytesOf t) = some (BitVec.ofNat 2 k) := by
  obtain ⟨hk, hn, hj⟩ := h
  have hb : bytesOf t = [typeByte t 0, typeByte t 1, typeByte t 2, typeByte t 3] := rfl
  rw [hb]
  simp only [← isLetter_iff] at hn hj
  simp only [validate, firstNonLetter]
  interval_cases k
  · simp [hn]
  · have := hj 0 (by omega); simp_all
  · have := hj 0 (by omega); have := hj 1 (by omega); simp_all
  · have := hj 0 (by omega); have := hj 1 (by omega); have := hj 2 (by omega); simp_all

/-- CHUNK_ENCODE writes 12 + CH_LEN bytes (R145). -/
theorem State.encoded_length (s : State) : s.encoded.length = 12 + s.chLen.toNat := by
  simp [State.encoded, State.payload, State.payloadLen, bytesOf, toBe32]; omega

/-- The ranges of R67 overlap iff they share an address. -/
theorem overlaps_iff_shared (a n c m : Nat) :
    overlaps a n c m = true ↔ ∃ x, (a ≤ x ∧ x < a + n) ∧ c ≤ x ∧ x < c + m := by
  rw [overlaps_iff]
  constructor
  · intro h; exact ⟨max a c, by omega⟩
  · rintro ⟨x, h⟩; omega

theorem bytesFrom_take (s : State) (a n k : Nat) (h : k ≤ n) : (bytesFrom s a n).take k = bytesFrom s a k := by
  obtain ⟨m, rfl⟩ := Nat.exists_eq_add_of_le h
  rw [bytesFrom_append, List.take_append_of_le_length (by simp), List.take_of_length_le (by simp)]

theorem bytesFrom_drop (s : State) (a n k : Nat) (h : k ≤ n) :
    (bytesFrom s a n).drop k = bytesFrom s (a + k) (n - k) := by
  obtain ⟨m, rfl⟩ := Nat.exists_eq_add_of_le h
  rw [bytesFrom_append, List.drop_append_of_le_length (by simp), List.drop_of_length_le (by simp)]; simp

end Sys2Proof.Machine
end

