-- ==== Sys2Proof/Laws/Meanings.lean ====
section
/-! SUPPORT. One inversion lemma per command: if it answers `next t`, then `t` is one of these states, each with the
checks that lead to it. -/

namespace Sys2Proof.Machine

theorem execNop_cases {s t : State} (h : execNop s = .next t) : t = s.succeed := by
  simpa [execNop] using h.symm

theorem execCrcInit_cases {s t : State} (h : execCrcInit s = .next t) : t = (s.setCrcState crcInitial).succeed := by
  simpa [execCrcInit] using h.symm

theorem execCrcUpdate_cases {s t : State} (h : execCrcUpdate s = .next t) :
    (s.sourceInBounds = false ∧ t = s.raise .outOfBounds) ∨
    (s.sourceInBounds = true ∧ t = (s.setCrcState (crcFold s.source s.crcState)).succeed) := by
  unfold execCrcUpdate at h
  cases hb : s.sourceInBounds <;> rw [hb] at h
  · exact .inl ⟨rfl, by simpa using h.symm⟩
  · exact .inr ⟨rfl, by simpa using h.symm⟩

theorem execTcLoad_cases {s t : State} (h : execTcLoad s = .next t) :
    (∃ k, validate (bytesOf s.typeIn) = some k ∧ t = s.raiseAt .badTypeByte k) ∨
    (validate (bytesOf s.typeIn) = none ∧ t = (s.loadType s.typeIn).succeed) := by
  unfold execTcLoad at h
  cases hv : validate (bytesOf s.typeIn) <;> rw [hv] at h
  · exact .inr ⟨rfl, by simpa using h.symm⟩
  · exact .inl ⟨_, rfl, by simpa using h.symm⟩

theorem execTcLoadStr_cases {s t : State} (h : execTcLoadStr s = .next t) :
    (s.sourceInBounds = false ∧ t = s.raise .outOfBounds) ∨
    (s.sourceInBounds = true ∧ s.srcLen ≠ 4 ∧ t = s.raise .wrongTypeLength) ∨
    (s.sourceInBounds = true ∧ s.srcLen = 4 ∧
      ∃ k, validate (s.memRead s.srcAddr 4) = some k ∧ t = s.raiseAt .badTypeByte k) ∨
    (s.sourceInBounds = true ∧ s.srcLen = 4 ∧ validate (s.memRead s.srcAddr 4) = none ∧
      t = (s.loadType (pack (s.memRead s.srcAddr 4))).succeed) := by
  unfold execTcLoadStr at h
  cases hb : s.sourceInBounds <;> rw [hb] at h
  · exact .inl ⟨rfl, by simpa using h.symm⟩
  by_cases hl : s.srcLen = 4
  · cases hv : validate (s.memRead s.srcAddr 4) <;> simp [hl, hv] at h
    · exact .inr (.inr (.inr ⟨rfl, hl, rfl, h.symm⟩))
    · exact .inr (.inr (.inl ⟨rfl, hl, _, rfl, h.symm⟩))
  · exact .inr (.inl ⟨rfl, hl, by simpa [hl] using h.symm⟩)

theorem execChunkNew_cases {s t : State} (h : execChunkNew s = .next t) :
    (s.tcValid = false ∧ t = s.raise .noType) ∨
    (s.tcValid = true ∧ s.sourceInBounds = false ∧ t = s.raise .outOfBounds) ∨
    (s.tcValid = true ∧ s.sourceInBounds = true ∧
      t = (s.bindChunk s.typeReg s.src s.slen (crc32 (bytesOf s.typeReg ++ s.source))).succeed) := by
  unfold execChunkNew at h
  cases hv : s.tcValid <;> rw [hv] at h
  · exact .inl ⟨rfl, by simpa using h.symm⟩
  cases hb : s.sourceInBounds <;> rw [hb] at h
  · exact .inr (.inl ⟨rfl, rfl, by simpa using h.symm⟩)
  · exact .inr (.inr ⟨rfl, rfl, by simpa using h.symm⟩)

theorem execChunkEncode_cases {s t : State} (h : execChunkEncode s = .next t) :
    (s.chValid = false ∧ t = s.raise .noChunk) ∨
    (s.chValid = true ∧ s.inBounds s.dstAddr s.recordLen = false ∧ t = s.raise .outOfBounds) ∨
    (s.chValid = true ∧ s.inBounds s.dstAddr s.recordLen = true ∧
      t = ((s.memWrite s.dstAddr s.encoded).setOutLen (BitVec.ofNat 32 s.recordLen)).succeed) := by
  unfold execChunkEncode at h
  cases hv : s.chValid <;> rw [hv] at h
  · exact .inl ⟨rfl, by simpa using h.symm⟩
  cases hb : s.inBounds s.dstAddr s.recordLen <;> rw [hb] at h
  · exact .inr (.inl ⟨rfl, rfl, by simpa using h.symm⟩)
  · exact .inr (.inr ⟨rfl, rfl, by simpa using h.symm⟩)

theorem execChunkText_cases {s t : State} (h : execChunkText s = .next t) :
    (s.chValid = false ∧ t = s.raise .noChunk) ∨
    (s.chValid = true ∧ utf8Ok s.payload = false ∧ t = s.raise .notUtf8) ∨
    (s.chValid = true ∧ utf8Ok s.payload = true ∧ t = s.succeed) := by
  unfold execChunkText at h
  cases hv : s.chValid <;> rw [hv] at h
  · exact .inl ⟨rfl, by simpa using h.symm⟩
  cases hb : utf8Ok s.payload <;> rw [hb] at h
  · exact .inr (.inl ⟨rfl, rfl, by simpa using h.symm⟩)
  · exact .inr (.inr ⟨rfl, rfl, by simpa using h.symm⟩)

/-- The length field of the record at SRC (R150, step 2). -/
abbrev State.declaredLen (s : State) : Word := be32 (s.memRead s.srcAddr 4)

/-- The type bytes, the payload and the checksum field of the record at SRC (R150, steps 4 to 6). -/
abbrev State.spanType (s : State) : List Byte := s.memRead (s.srcAddr + 4) 4
abbrev State.spanPayload (s : State) : List Byte := s.memRead (s.srcAddr + 8) s.declaredLen.toNat
abbrev State.spanCrc (s : State) : Word := be32 (s.memRead (s.srcAddr + 8 + s.declaredLen.toNat) 4)

theorem execChunkDecode_cases {s t : State} (h : execChunkDecode s = .next t) :
    (s.sourceInBounds = false ∧ t = s.raise .outOfBounds) ∨
    (s.sourceInBounds = true ∧ s.srcLen < 12 ∧ t = s.raise .incomplete) ∨
    (s.sourceInBounds = true ∧ 12 ≤ s.srcLen ∧ s.srcLen ≠ 12 + s.declaredLen.toNat ∧ t = s.raise .invalidLength) ∨
    (s.sourceInBounds = true ∧ s.srcLen = 12 + s.declaredLen.toNat ∧
      ∃ k, validate s.spanType = some k ∧ t = s.raiseAt .badTypeByte k) ∨
    (s.sourceInBounds = true ∧ s.srcLen = 12 + s.declaredLen.toNat ∧ validate s.spanType = none ∧
      crc32 (s.spanType ++ s.spanPayload) ≠ s.spanCrc ∧ t = s.raise .checksumMismatch) ∨
    (s.sourceInBounds = true ∧ s.srcLen = 12 + s.declaredLen.toNat ∧ validate s.spanType = none ∧
      crc32 (s.spanType ++ s.spanPayload) = s.spanCrc ∧
      t = (s.bindChunk (pack s.spanType) (BitVec.ofNat 32 (s.srcAddr + 8)) s.declaredLen s.spanCrc).succeed) := by
  unfold execChunkDecode at h
  cases hb : s.sourceInBounds <;> rw [hb] at h
  · exact .inl ⟨rfl, by simpa using h.symm⟩
  refine .inr ?_
  by_cases h12 : s.srcLen < 12
  · exact .inl ⟨rfl, h12, by simpa [h12] using h.symm⟩
  refine .inr ?_
  by_cases hl : s.srcLen = 12 + s.declaredLen.toNat
  · refine .inr ?_
    simp only [Bool.not_true, Bool.false_eq_true, if_false, if_neg h12] at h
    rw [if_neg (not_not.mpr hl)] at h
    cases hv : validate s.spanType with
    | some k => exact .inl ⟨rfl, hl, k, rfl, by simpa [hv] using h.symm⟩
    | none =>
      refine .inr ?_
      simp only [hv] at h
      by_cases hc : crc32 (s.spanType ++ s.spanPayload) = s.spanCrc
      · rw [if_neg (not_not.mpr hc)] at h
        exact .inr ⟨rfl, hl, rfl, hc, by simpa using h.symm⟩
      · rw [if_pos hc] at h
        exact .inl ⟨rfl, hl, rfl, hc, by simpa using h.symm⟩
  · exact .inl ⟨rfl, by omega, hl, by simpa [h12, hl] using h.symm⟩

end Sys2Proof.Machine
end

