-- ==== Sys2Proof/Laws/HostPort.lean ====
section
/-! SUPPORT. What one host action and one step can do, said once. -/

namespace Sys2Proof.Machine

open Sys2Proof.Safety

theorem step_cons {s : State} {a : HostAction} {rest : List HostAction} (h : s.host = a :: rest) :
    step s = hostAct a (s.issue rest) := by
  unfold step; rw [h]

theorem core_run_succ {n : Nat} {s t : State} (h : step s = .next t) : core.run (n + 1) s = core.run n t := by
  have h : core.step s = .next t := h
  simp [Host.Core.run, h]

theorem runCommandWord_illegal {v : Word} (h : ∀ i, decode v ≠ .ok i) (s : State) :
    runCommandWord v s = .next (s.raise .illegalCommand) := by
  unfold runCommandWord
  cases hd : decode v with
  | ok i => exact absurd hd (h i)
  | error e => rfl

theorem regWrite_ignored {off : Nat} (h : off ∉ [0x00, 0x08, 0x0C, 0x10, 0x14]) (v : Word) (s : State) :
    regWrite off v s = .next s := by
  simp at h
  have : ∀ r, regAt off = some r → r ≠ .cmd ∧ r ≠ .src ∧ r ≠ .slen ∧ r ≠ .dst ∧ r ≠ .typeIn := by
    intro r hr
    unfold regAt at hr
    split at hr <;> simp_all <;> subst hr <;> simp
  unfold regWrite
  split <;> simp_all

/-- Everything that a host action can do (R22, R23, R61, R62, R84, R200). -/
theorem hostAct_cases {a : HostAction} {s t : State} (h : hostAct a s = .next t) :
    (∃ off, a = .regRead off ∧ t = s.answered (.word (s.regValue off))) ∨
    (∃ x, a = .bufRead x ∧ t = s.answered (.byte (s.bufValue x))) ∨
    (∃ x b, a = .bufWrite x b ∧ (x < s.bufSize ∧ t = s.memWrite x [b] ∨ s.bufSize ≤ x ∧ t = s)) ∨
    (a = .reset ∧ t = s.resetCore) ∨
    (∃ off v, a = .regWrite off v ∧
      (off = 0x08 ∧ t = { s with src := v } ∨ off = 0x0C ∧ t = { s with slen := v } ∨
        off = 0x10 ∧ t = { s with dst := v } ∨ off = 0x14 ∧ t = { s with typeIn := v } ∨
        off ∉ [0x00, 0x08, 0x0C, 0x10, 0x14] ∧ t = s)) ∨
    (∃ v, a = .regWrite 0 v ∧
      ((∀ i, decode v ≠ .ok i) ∧ t = s.raise .illegalCommand ∨ ∃ i, decode v = .ok i ∧ exec i s = .next t)) := by
  cases a with
  | regRead off => cases h; exact .inl ⟨_, rfl, rfl⟩
  | bufRead x => cases h; exact .inr (.inl ⟨_, rfl, rfl⟩)
  | reset => cases h; exact .inr (.inr (.inr (.inl ⟨rfl, rfl⟩)))
  | bufWrite x b =>
    refine .inr (.inr (.inl ⟨x, b, rfl, ?_⟩))
    simp only [hostAct, bufWrite] at h
    split at h <;> cases h
    · exact .inl ⟨by assumption, rfl⟩
    · exact .inr ⟨by omega, rfl⟩
  | regWrite off v =>
    by_cases h0 : off = 0
    · subst h0
      refine .inr (.inr (.inr (.inr (.inr ⟨v, rfl, ?_⟩))))
      have h : runCommandWord v s = .next t := h
      by_cases hd : ∃ i, decode v = .ok i
      · obtain ⟨i, hi⟩ := hd
        unfold runCommandWord at h
        rw [hi] at h
        exact .inr ⟨i, hi, h⟩
      · have hd : ∀ i, decode v ≠ .ok i := fun i hi => hd ⟨i, hi⟩
        rw [runCommandWord_illegal hd] at h
        cases h
        exact .inl ⟨hd, rfl⟩
    · refine .inr (.inr (.inr (.inr (.inl ⟨off, v, rfl, ?_⟩))))
      by_cases h8 : off = 0x08
      · subst h8; cases h; simp
      by_cases hc : off = 0x0C
      · subst hc; cases h; simp
      by_cases h10 : off = 0x10
      · subst h10; cases h; simp
      by_cases h14 : off = 0x14
      · subst h14; cases h; simp
      have hn : off ∉ [0x00, 0x08, 0x0C, 0x10, 0x14] := by simp [h0, h8, hc, h10, h14]
      have h : regWrite off v s = .next t := h
      rw [regWrite_ignored hn] at h
      cases h
      simp [h0, h8, hc, h10, h14]

/-- CHUNK_ENCODE on a chunk whose record fits (R145): the state as its updates make it. -/
theorem execChunkEncode_fits {s : State} (h : s.chValid = true) (hb : s.dst.toNat + (12 + s.chLen.toNat) ≤ s.bufSize) :
    execChunkEncode s
      = .next ((s.memWrite s.dstAddr s.encoded).setOutLen (BitVec.ofNat 32 s.recordLen)).succeed := by
  have : s.inBounds s.dstAddr s.recordLen = true := (inBounds_iff _ _ _).2 hb
  simp [execChunkEncode, h, this]

/-- The bytes that CHUNK_ENCODE leaves in the range that it writes. -/
theorem bytesFrom_encoded (s : State) (a : Nat) (o : Word) :
    bytesFrom ((s.memWrite a s.encoded).setOutLen o).succeed a (12 + s.chLen.toNat) = s.encoded := by
  have := bytesFrom_memWrite s a s.encoded
  rw [State.encoded_length] at this
  exact (bytesFrom_congr fun x _ _ => by simp).trans this

end Sys2Proof.Machine
end

