-- ==== Sys2Proof/Laws/PerInstr.lean ====
section
/-! SUPPORT. The statements made of every instruction, one lemma per constructor. -/

namespace Sys2Proof.Laws.EncodesLegal

/-- The command is well formed and its word is legal by R84. -/
def Statement (i : Instr) : Prop := i.wellFormed = true ∧ legalWord (encode i) = true

theorem nop : Statement .nop := by unfold Statement; decide
theorem tcLoad : Statement .tcLoad := by unfold Statement; decide
theorem tcLoadStr : Statement .tcLoadStr := by unfold Statement; decide
theorem chunkNew : Statement .chunkNew := by unfold Statement; decide
theorem chunkEncode : Statement .chunkEncode := by unfold Statement; decide
theorem chunkDecode : Statement .chunkDecode := by unfold Statement; decide
theorem chunkText : Statement .chunkText := by unfold Statement; decide
theorem crcInit : Statement .crcInit := by unfold Statement; decide
theorem crcUpdate : Statement .crcUpdate := by unfold Statement; decide

end Sys2Proof.Laws.EncodesLegal
end

