-- ==== Sys2Proof/Tests/Slice0.lean ====
section
/-! SUPPORT. Tests against the spec's own vectors (95_test_vectors.md, which assumes BUF_SIZE = 256), and for each
obligation with hypotheses a witness that they can be met. Every expected value is the spec's. -/

set_option Elab.async false

namespace Sys2Proof.Tests

open Sys2Proof.Machine Sys2Proof.Safety

/-! ### Small states -/

/-- The state after reset of a core with the BUF_SIZE that the spec's vectors assume. -/
def fresh : State := State.atReset 256 0

/-- The host has written the bytes `bs` at `a`. -/
def put (a : Nat) (bs : List Byte) (s : State) : State := { s with buf := Memory.writeAll a bs s.buf }

/-- SRC and SLEN. -/
def range (a n : Word) (s : State) : State := { s with src := a, slen := n }

/-- A type code is loaded. -/
def typed (t : Word) (s : State) : State := { s with typeReg := t, tcValid := true }

/-- A chunk is bound. -/
def chunk (t a n c : Word) (s : State) : State :=
  { s with chType := t, chAddr := a, chLen := n, chCrc := c, chValid := true }

/-- The host's one action to come. -/
def act (a : HostAction) (s : State) : State := { s with host := [a] }

/-- The host's next action writes `v` to CMD. -/
def cmd (v : Word) (s : State) : State := act (.regWrite 0x00 v) s

/-- The result is a next state with property `p`. -/
def holds (r : Result) (p : State → Bool) : Bool :=
  match r with
  | .next t => p t
  | .fault _ => false
  | .refused _ => false

theorem of_holds {r : Result} {p : State → Prop} [DecidablePred p] (h : holds r (fun t => decide (p t)) = true) :
    ∃ t, r = .next t ∧ p t := by
  cases r with
  | next t => exact ⟨t, rfl, of_decide_eq_true h⟩
  | fault f => cases h
  | refused f => cases h

/-- Every row of a table passes. -/
abbrev every {α : Type} (rows : List α) (p : α → Bool) : Prop := rows.all p = true

/-- The bytes of BUF[a..a+n), as written. -/
def written (s : State) (a n : Nat) : List (Option Byte) := (List.range n).map fun i => Memory.find (a + i) s.buf

/-- The record of V-DEC-1. -/
def iendRecord : List Byte := [0x00, 0x00, 0x00, 0x00, 0x49, 0x45, 0x4E, 0x44, 0xAE, 0x42, 0x60, 0x82]

/-- The record of V-DEC-10. -/
def rustRecord : List Byte :=
  [0x00, 0x00, 0x00, 0x02, 0x52, 0x75, 0x73, 0x74, 0x68, 0x69, 0x72, 0x8E, 0x90, 0x4D]

/-- The message of W1, 42 bytes. -/
def message : List Byte :=
  [0x54, 0x68, 0x69, 0x73, 0x20, 0x69, 0x73, 0x20, 0x77, 0x68, 0x65, 0x72, 0x65, 0x20] ++
  [0x79, 0x6F, 0x75, 0x72, 0x20, 0x73, 0x65, 0x63, 0x72, 0x65, 0x74, 0x20, 0x6D, 0x65] ++
  [0x73, 0x73, 0x61, 0x67, 0x65, 0x20, 0x77, 0x69, 0x6C, 0x6C, 0x20, 0x62, 0x65, 0x21]

/-- The record of W1. -/
def messageRecord : List Byte :=
  [0x00, 0x00, 0x00, 0x2A, 0x52, 0x75, 0x53, 0x74] ++ message ++ [0xAB, 0xD1, 0xD8, 0x4E]

/-- A record decoded at 0x40 (2.5). -/
def decoding (bs : List Byte) (n : Word) : State := range 0x40 n (put 0x40 bs fresh)

/-- The chunk of 2.4's overlap cases, "RuSt" with payload "abc" bound at `a`. -/
def abcAt (a : Nat) : State :=
  chunk 0x52755374 (BitVec.ofNat 32 a) 3 0x2342A192 (put a [0x61, 0x62, 0x63] fresh)

/-! ### Command words (2.7, R83 to R85) -/

theorem test_legalWord_refuses_nonzero_mbz : legalWord 0x00000100 = false := by decide +kernel
theorem test_legalWord_refuses_mbz_with_legal_op : legalWord 0x00000105 = false := by decide +kernel
theorem test_legalWord_refuses_top_bit : legalWord 0x80000001 = false := by decide +kernel
theorem test_legalWord_refuses_reserved_op : legalWord 0x00000009 = false := by decide +kernel
theorem test_legalWord_refuses_last_op : legalWord 0x000000FF = false := by decide +kernel
theorem test_legalWord_accepts_last_command : legalWord 0x00000008 = true := by decide +kernel

theorem test_decode_nop : decode 0b00000000000000000000000000000000 = .ok .nop := rfl
theorem test_decode_tcLoad : decode 0b00000000000000000000000000000001 = .ok .tcLoad := rfl
theorem test_decode_tcLoadStr : decode 0b00000000000000000000000000000010 = .ok .tcLoadStr := rfl
theorem test_decode_chunkNew : decode 0b00000000000000000000000000000011 = .ok .chunkNew := rfl
theorem test_decode_chunkEncode : decode 0b00000000000000000000000000000100 = .ok .chunkEncode := rfl
theorem test_decode_chunkDecode : decode 0b00000000000000000000000000000101 = .ok .chunkDecode := rfl
theorem test_decode_chunkText : decode 0b00000000000000000000000000000110 = .ok .chunkText := rfl
theorem test_decode_crcInit : decode 0b00000000000000000000000000000111 = .ok .crcInit := rfl
theorem test_decode_crcUpdate : decode 0b00000000000000000000000000001000 = .ok .crcUpdate := rfl
theorem test_decode_reserved : decode 0x00000009 = .error .reservedOpcode := rfl
theorem test_decode_mbz : decode 0x00000105 = .error .mustBeZeroBitsSet := rfl
theorem test_decodeTableWord_refuses_wide_word : decodeTableWord 32 0x100000001 = none := by decide +kernel

theorem test_illegal_words_set_error : every [0x00000009, 0x000000FF, 0x00000100, 0x00000105, 0x80000001]
    fun v => holds (step (cmd v fresh)) fun t => t.status = 0x008 := by decide +kernel

/-- From reset, with a command word placed and nothing else, the step runs it. -/
theorem test_placed_word_runs : step (State.reset.withFetchWord 32 0x00000007) = exec .crcInit State.reset := rfl

/-! ### CRC-32 (2.1) -/

theorem test_crc_of_single_bytes : crc32 [0x00] = 0xD202EF8D ∧ crc32 [0xFF] = 0xFF000000 := by decide +kernel
theorem test_crc_step : crcStep 0xFFFFFFFF 0x31 = 0x7C231048 ∧ crcStep 0xFFFFFFFF 0x00 = 0x2DFD1072 := by
  decide +kernel
/-- W1, R109: the source's own value 2882656334. -/
theorem test_crc_of_message : (crc32 ([0x52, 0x75, 0x53, 0x74] ++ message)).toNat = 2882656334 := by decide +kernel

theorem test_crcInit : holds (step (cmd 0x00000007 { fresh with crcState := 0x340AC5E3 }))
    (fun t => t.crcState = 0xFFFFFFFF ∧ t.crcValue = 0) = true := by decide +kernel
/-- V-CRC-3, steps 3 and 5. -/
theorem test_crcUpdate : holds
    (step (cmd 0x00000008 (range 5 4 (put 5 [0x36, 0x37, 0x38, 0x39] { fresh with crcState := 0x340AC5E3 }))))
    (fun t => t.crcState = 0x340BC6D9 ∧ t.crcValue = 0xCBF43926) = true := by decide +kernel
theorem test_crcUpdate_out_of_bounds : holds (step (cmd 0x00000008 (range 250 7 { fresh with crcState := 0x340BC6D9 })))
    (fun t => t.status = 0x00B ∧ t.crcState = 0x340BC6D9) = true := by decide +kernel

/-! ### Type codes (W3, 2.2) -/

theorem test_tcLoad : every ([(0x52755374, 0x1D), (0x72755374, 0x1C), (0x52555374, 0x1F), (0x52757374, 0x09),
      (0x52755354, 0x15), (0x41414141, 0x17), (0x5A5A5A5A, 0x17), (0x61616161, 0x08), (0x7A7A7A7A, 0x08)] :
        List (Word × Word)) fun r =>
    holds (step (cmd 0x00000001 { fresh with typeIn := r.1 }))
      (fun t => t.status = 0x100 ∧ t.typeReg = r.1 ∧ t.tflags = r.2) = true := by decide +kernel
theorem test_tcLoad_fails : every ([(0x40755374, 0x01), (0x5B755374, 0x01), (0x60755374, 0x01), (0x7B755374, 0x01),
      (0x00000000, 0x01), (0x52000000, 0x11), (0x52753174, 0x21), (0x52755300, 0x31), (0x4141415B, 0x31)] :
        List (Word × Word)) fun r =>
    holds (step (cmd 0x00000001 { fresh with typeIn := r.1 }))
      (fun t => t.status = r.2 ∧ t.typeReg = 0 ∧ t.tflags = 0) = true := by decide +kernel

theorem test_tcLoadStr : holds (step (cmd 0x00000002 (range 0x10 4 (put 0x10 [0x52, 0x75, 0x73, 0x74] fresh))))
    (fun t => t.status = 0x100 ∧ t.typeReg = 0x52757374 ∧ t.tflags = 0x09) = true := by decide +kernel
/-- V-TC-STR: bounds before length, length before letters. -/
theorem test_tcLoadStr_fails :
    every ([(0x10, 3, 0x002), (0x10, 5, 0x002), (0x10, 0, 0x002), (0x10, 4, 0x011), (0xFE, 4, 0x00B),
        (0xFE, 2, 0x002)] : List (Word × Word × Word)) fun r =>
      holds (step (cmd 0x00000002 (range r.1 r.2.1 (put 0x10 [0x52, 0x31, 0x73, 0x74] fresh))))
        (fun t => t.status = r.2.2 ∧ t.typeReg = 0) = true := by decide +kernel

/-! ### Chunks (2.3 to 2.5) -/

/-- R140's example: ERR = CHECKSUM_MISMATCH, TC_VALID = 1. -/
theorem test_nop : holds (step (cmd 0x00000000 { fresh with tcValid := true, err := 5 })) (fun t => t.status = 0x100)
    = true := by decide +kernel

theorem test_chunkNew : holds (step (cmd 0x00000003 (range 0x100 0 (typed 0x49454E44 fresh))))
    (fun t => t.status = 0x300 ∧ t.chAddr = 0x100 ∧ t.chLen = 0 ∧ t.chCrc = 0xAE426082 ∧ t.cflags = 0x17) = true := by
  decide +kernel
theorem test_chunkNew_fails :
    holds (step (cmd 0x00000003 fresh)) (fun t => t.status = 0x009) = true ∧
    holds (step (cmd 0x00000003 (range 250 7 (typed 0x49454E44 fresh)))) (fun t => t.status = 0x10B) = true := by decide +kernel

/-- P4's overlap at DST = 0 and 2.4's at DST = 1: the payload is read before the record is written. -/
theorem test_chunkEncode_overlap :
    holds (step (cmd 0x00000004 { abcAt 0 with dst := 1 }))
      (fun t => t.status = 0x000 ∧ t.outLen = 15 ∧ t.cflags = 0 ∧ written t 0 16 =
        ([0x61, 0x00, 0x00, 0x00, 0x03, 0x52, 0x75, 0x53, 0x74, 0x61, 0x62, 0x63, 0x23, 0x42, 0xA1, 0x92].map some))
      = true := by decide +kernel
/-- 2.4: a record of 12 bytes that ends at BUF_SIZE, and one address further. -/
theorem test_chunkEncode_edge :
    holds (step (cmd 0x00000004 { chunk 0x49454E44 0 0 0xAE426082 fresh with dst := 244 }))
      (fun t => t.status = 0x200 ∧ t.outLen = 12 ∧ written t 244 12 = iendRecord.map some) = true ∧
    holds (step (cmd 0x00000004 { chunk 0x49454E44 0 0 0xAE426082 fresh with dst := 245 }))
      (fun t => t.status = 0x20B ∧ t.outLen = 0 ∧ t.buf = []) = true := by decide +kernel

/-- W1. -/
theorem test_chunkDecode : holds (step (cmd 0x00000005 (decoding messageRecord 54)))
    (fun t => t.status = 0x200 ∧ t.chType = 0x52755374 ∧ t.chAddr = 0x48 ∧ t.chLen = 42 ∧ t.chCrc = 2882656334 ∧
      t.cflags = 0x1D) = true := by decide +kernel
/-- V-DEC-2, 4, 5, 6, 8, 9 and 11: the order of the checks. -/
theorem test_chunkDecode_fails : every ([(iendRecord, 11, 0x003), (iendRecord ++ [0x00], 13, 0x004),
      ([0x00, 0x00, 0x00, 0x01] ++ iendRecord.drop 4, 12, 0x004),
      ([0xFF, 0xFF, 0xFF, 0xFF] ++ iendRecord.drop 4, 12, 0x004),
      ([0x00, 0x00, 0x00, 0x00, 0x49, 0x45, 0x31, 0x44, 0x00, 0x00, 0x00, 0x00], 12, 0x021),
      (iendRecord.take 11 ++ [0x83], 12, 0x005), (iendRecord, 300, 0x00B)] : List (List Byte × Word × Word)) fun r =>
    holds (step (cmd 0x00000005 (decoding r.1 r.2.1))) (fun t => t.status = r.2.2 ∧ t.chCrc = 0) = true := by
  decide +kernel

/-- 2.6: well-formed payloads, the last code points before and after the surrogates among them. -/
theorem test_utf8_accepts : every ([[], [0x00], [0xE2, 0x82, 0xAC], [0xF0, 0x9F, 0x98, 0x80], [0xED, 0x9F, 0xBF],
      [0xF4, 0x8F, 0xBF, 0xBF]] : List (List Byte)) fun p => utf8Ok p = true := by decide +kernel
/-- 2.6: ill-formed payloads. -/
theorem test_utf8_refuses : every ([[0xC3, 0x28], [0xED, 0xA0, 0x80], [0xC0, 0x80], [0xF4, 0x90, 0x80, 0x80],
      [0xE2, 0x82], [0xFF]] : List (List Byte)) fun p => utf8Ok p = false := by decide +kernel
theorem test_chunkText : holds (step (cmd 0x00000006 (abcAt 8))) (fun t => t.status = 0x200) = true := by decide +kernel
theorem test_chunkText_fails :
    holds (step (cmd 0x00000006 (put 8 [0xC3, 0x28] (chunk 0x74455874 8 2 0 fresh)))) (fun t => t.status = 0x206) = true ∧
    holds (step (cmd 0x00000006 fresh)) (fun t => t.status = 0x00A) = true := by decide +kernel

/-! ### Register and buffer access, invalidation, reset (2.8 to 2.10) -/

theorem test_regRead : every ([(0x14, 0x52755374), (0x15, 0), (0x40, 0), (0x00, 0), (0x38, 0xFFFFFFFF), (0x3C, 0)] :
      List (Nat × Word)) fun r =>
    holds (step (act (.regRead r.1) { fresh with typeIn := 0x52755374 })) (fun t => t.answer = .word r.2) = true := by
  decide +kernel
theorem test_regWrite_ignored : every [0x18, 0x16] fun off =>
    holds (step (act (.regWrite off 0x12345678) { fresh with typeIn := 0x52755374 }))
      (fun t => t = { fresh with typeIn := 0x52755374 }) = true := by decide +kernel
theorem test_bufRead_edge :
    holds (step (act (.bufRead 256) fresh)) (fun t => t.answer = .byte 0) = true ∧
    holds (step (act (.bufRead 255) (put 255 [0x55] fresh))) (fun t => t.answer = .byte 0x55) = true := by decide +kernel
theorem test_bufWrite_edge :
    holds (step (act (.bufWrite 256 0x55) fresh)) (fun t => t = fresh) = true ∧
    holds (step (act (.bufWrite 255 0x55) fresh)) (fun t => t.buf = [(255, 0x55)]) = true := by decide +kernel
/-- 2.9: the payload [0x48, 0x72) of W1, and the empty payload at 0x28. -/
theorem test_bufWrite_invalidates : every ([(0x48, 42, 0x48, false), (0x48, 42, 0x72, true), (0x48, 42, 0x47, true),
      (0x48, 42, 0x71, false), (0x28, 0, 0x28, true)] : List (Word × Word × Nat × Bool)) fun r =>
    holds (step (act (.bufWrite r.2.2.1 0x54) (chunk 0x52755374 r.1 r.2.1 0xABD1D84E fresh)))
      (fun t => t.chValid = r.2.2.2) = true := by decide +kernel
theorem test_reset : holds (step (act .reset { abcAt 8 with src := 1, tcValid := true, crcState := 0, err := 5 }))
    (fun t => t = { fresh with draw := 1 }) = true := by decide +kernel

/-! ### Witnesses: states and operands that meet the hypotheses of each obligation -/

theorem witness_CommandWordIsCheckedThenRun : decode 0x00000008 = .ok .crcUpdate ∧ every [0x00000009, 0x000000FF, 0x00000100, 0x80000001] fun v =>
    (cmd v fresh).host = .regWrite 0x00 v :: [] ∧
      ¬ (v.extractLsb' 8 24 = 0 ∧ (v.extractLsb' 0 8).toNat ≤ 0x08) := ⟨rfl, by decide +kernel⟩
theorem witness_CommandWordRoundTrip : decode 0x00000000 = .ok .nop ∧ decode 0x00000008 = .ok .crcUpdate := ⟨rfl, rfl⟩
theorem witness_StepRunsTheCommandWritten :
    (cmd 0x00000008 fresh).host = .regWrite 0x00 0x00000008 :: [] ∧ decode 0x00000008 = .ok .crcUpdate := ⟨rfl, rfl⟩
theorem witness_IdleCoreHoldsItsState : fresh.host = [] := rfl
/-- Each of the seven clauses: the four operands, CMD with a legal and an illegal word, and an ignored offset. -/
theorem witness_RegisterWriteStoresOnlyOperands :
    (every [0x08, 0x0C, 0x10, 0x14] fun off => (act (.regWrite off 1) fresh).host = .regWrite off 1 :: []) ∧
    (act (.regWrite 0x00 8) fresh).host = .regWrite 0x00 8 :: [] ∧ decode 8 = .ok .crcUpdate ∧
    (act (.regWrite 0x00 9) fresh).host = .regWrite 0x00 9 :: [] ∧ decode 9 = .error .reservedOpcode ∧
    (every [0x04, 0x15, 0x18, 0x3C, 0x40] fun off =>
      (act (.regWrite off 1) fresh).host = .regWrite off 1 :: [] ∧ off ∉ [0x00, 0x08, 0x0C, 0x10, 0x14]) :=
  ⟨by decide +kernel, rfl, rfl, rfl, rfl, by decide +kernel⟩
/-- A mapped offset, the last one, a misaligned one and the first past the map. -/
theorem witness_RegisterReadReturnsTheValue : every [0x00, 0x3C, 0x15, 0x40] fun off =>
    (act (.regRead off) fresh).host = .regRead off :: [] := by decide +kernel
theorem witness_BufferReadReturnsTheByte :
    (act (.bufRead 255) fresh).host = .bufRead 255 :: [] ∧ 255 < fresh.bufSize ∧
    (act (.bufRead 256) fresh).host = .bufRead 256 :: [] ∧ fresh.bufSize ≤ 256 := by decide +kernel
theorem witness_BufferWriteStoresOneByte :
    (act (.bufWrite 255 1) fresh).host = .bufWrite 255 1 :: [] ∧ 255 < fresh.bufSize ∧
    (act (.bufWrite 256 1) fresh).host = .bufWrite 256 1 :: [] ∧ fresh.bufSize ≤ 256 := by decide +kernel
theorem witness_BufferWriteIsIdempotent : ∃ t, hostAct (.bufWrite 8 0x61) (abcAt 8) = .next t :=
  (of_holds (p := fun t => t.chValid = false) (by decide +kernel)).imp fun _ h => h.1
theorem witness_ResetGivesTheResetValues : (act .reset (abcAt 8)).host = .reset :: [] := rfl
theorem witness_ResetDrawsEveryByteAnew : (act .reset (abcAt 8)).host = .reset :: [] := rfl
theorem witness_BigEndianHelpersAreInverse : ([0xAB, 0xD1, 0xD8, 0x4E] : List Byte).length = 4 := rfl
theorem witness_TypeCodePacking : (0 < 4 ∧ 3 < 4) ∧ ([0x52, 0x75, 0x53, 0x74] : List Byte).length = 4 := by decide
theorem witness_FlagViewsReadTypeByteBits : fresh.tcValid = false ∧ (typed 0x52755374 fresh).tcValid = true ∧
    fresh.chValid = false ∧ (abcAt 8).chValid = true := by decide +kernel
/-- Type codes that differ, and share byte (and so its bit 5) 0, 1, 2 or 3. -/
theorem witness_FlagsDependOnTheirOwnByte :
    typeByte 0x52755374 0 = typeByte 0x52555354 0 ∧ typeByte 0x52755374 1 = typeByte 0x72757354 1 ∧
    typeByte 0x52755374 2 = typeByte 0x72555354 2 ∧ typeByte 0x52755374 3 = typeByte 0x72557374 3 ∧
    (0x52755374 : Word).getLsbD 29 = (0x52555354 : Word).getLsbD 29 ∧
    (0x52755374 : Word).getLsbD 21 = (0x72757354 : Word).getLsbD 21 ∧
    (0x52755374 : Word).getLsbD 13 = (0x72555354 : Word).getLsbD 13 ∧
    (0x52755374 : Word).getLsbD 5 = (0x72557374 : Word).getLsbD 5 := by decide +kernel
theorem witness_LetterCaseIsBitFive :
    (every [0x41, 0x5A, 0x61, 0x7A] fun b => isLetter b) ∧
    ∃ t, exec .tcLoad { fresh with typeIn := 0x415A617A } = .next t ∧ t.err = 0 :=
  ⟨by decide +kernel, of_holds (by decide +kernel)⟩
theorem witness_OneChangedByteChangesTheChecksum : (0x74 : Byte) ≠ 0x54 := by decide
theorem witness_CrcInitResult : ∃ t, exec .crcInit fresh = .next t := ⟨_, rfl⟩
/-- In bounds up to the last byte, empty at BUF_SIZE, and one byte too far. -/
theorem witness_CrcUpdateResult :
    (range 250 6 fresh).src.toNat + (range 250 6 fresh).slen.toNat ≤ (range 250 6 fresh).bufSize ∧
    (range 256 0 fresh).src.toNat + (range 256 0 fresh).slen.toNat ≤ (range 256 0 fresh).bufSize ∧
    (range 250 7 fresh).bufSize < (range 250 7 fresh).src.toNat + (range 250 7 fresh).slen.toNat := by decide +kernel

/-- Two updates with another command between them, as in R106. -/
def streaming : State :=
  { put 0 [0x31, 0x32, 0x33] fresh with
    host := [.regWrite 0x0C 1, .regWrite 0x00 0x00000008, .regWrite 0x00 0x00000003, .regWrite 0x08 1,
      .regWrite 0x00 0x00000008] }
theorem witness_StreamingChecksumOfAllBytesFed : streaming.crcState = 0xFFFFFFFF ∧
    ∀ a ∈ streaming.host.take 5, a ≠ .regWrite 0x00 0x00000007 ∧ a ≠ .reset := by
  unfold streaming; decide
/-- What that run feeds is not nothing. -/
theorem test_fed_collects_both_updates : fed 5 streaming = [0x31, 0x32] := by decide +kernel

theorem lettersOnly_of {t : Word} (h : validate (bytesOf t) = none) : LettersOnly t := (validate_none_iff t).1 h
/-- The lowest and highest letters, and each index of a first non-letter. -/
theorem witness_TcLoadResult : LettersOnly { fresh with typeIn := 0x415A617A }.typeIn ∧
    FirstNonLetterAt { fresh with typeIn := 0x40755374 }.typeIn 0 ∧
    FirstNonLetterAt { fresh with typeIn := 0x52000000 }.typeIn 1 ∧
    FirstNonLetterAt { fresh with typeIn := 0x52753174 }.typeIn 2 ∧
    FirstNonLetterAt { fresh with typeIn := 0x4141415B }.typeIn 3 := by
  refine ⟨lettersOnly_of (by decide +kernel), ?_, ?_, ?_, ?_⟩ <;> unfold FirstNonLetterAt IsLetter <;> decide +kernel

/-- A string in BUF at 0x10. -/
def text (bs : List Byte) (n : Word) : State := range 0x10 n (put 0x10 bs fresh)
theorem witness_TcLoadStrResult :
    (range 0xFE 4 fresh).bufSize < (range 0xFE 4 fresh).src.toNat + (range 0xFE 4 fresh).slen.toNat ∧
    ((range 0xFE 2 fresh).src.toNat + (range 0xFE 2 fresh).slen.toNat ≤ (range 0xFE 2 fresh).bufSize ∧
      (range 0xFE 2 fresh).slen.toNat ≠ 4) ∧
    (let s := text [0x52, 0x75, 0x73, 0x74] 4;
      s.src.toNat + s.slen.toNat ≤ s.bufSize ∧ s.slen.toNat = 4 ∧
        (∀ k, k < 4 → typeByte 0x52757374 k = s.byteAt (s.src.toNat + k)) ∧ LettersOnly 0x52757374) ∧
    (let s := text [0x52, 0x31, 0x73, 0x74] 4;
      s.src.toNat + s.slen.toNat ≤ s.bufSize ∧ s.slen.toNat = 4 ∧
        (∀ k, k < 4 → typeByte 0x52317374 k = s.byteAt (s.src.toNat + k)) ∧ FirstNonLetterAt 0x52317374 1) := by
  refine ⟨by decide +kernel, by decide +kernel, ⟨by decide +kernel, by decide +kernel, by decide +kernel,
    lettersOnly_of (by decide +kernel)⟩, by decide +kernel, by decide +kernel, by decide +kernel, ?_⟩
  unfold FirstNonLetterAt IsLetter; decide +kernel
/-- The string's byte, the whole of a record, and each of the three registers, with the case of type byte 2 changed. -/
theorem witness_IsValidGatesNoCommand :
    ((0x00002000 : Word) ∈ [0, 0x00002000] ∧ (0 : Word) ∈ [0, 0x00002000] ∧
      (∃ t, exec .tcLoad { fresh with typeIn := 0x52755374 } = .next t ∧ t.err = 0) ∧
      ∃ t, exec .tcLoad { fresh with typeIn := 0x52755374 ^^^ 0x00002000 } = .next t ∧ t.err = 0) ∧
    (∃ t, exec .chunkNew (typed 0x52755374 fresh) = .next t ∧ t.err = 0) ∧
    (∃ t, exec .chunkNew (typed (0x52755374 ^^^ 0x00002000) fresh) = .next t ∧ t.err = 0) ∧
    (∃ t, exec .chunkEncode (abcAt 8) = .next t ∧ t.err = 0) ∧
    (∃ t, exec .chunkEncode { abcAt 8 with chType := 0x52755374 ^^^ 0x00002000 } = .next t ∧ t.err = 0) ∧
    (∃ t, exec .tcLoadStr (text [0x52, 0x75, 0x73, 0x74] 4) = .next t ∧ t.err = 0) ∧
    (∃ t, exec .tcLoadStr { text [0x52, 0x75, 0x73, 0x74] 4 with
      buf := Memory.write 0x12 (0x73 ^^^ 0x20) (text [0x52, 0x75, 0x73, 0x74] 4).buf } = .next t ∧ t.err = 0) ∧
    (let s := decoding rustRecord 14;
      let m := Memory.writeAll 0x40 (wireRecord [0x52, 0x75, 0x73 ^^^ 0x20, 0x74] [0x68, 0x69]) [];
      bytesFrom s s.src.toNat s.slen.toNat = wireRecord [0x52, 0x75, 0x73, 0x74] [0x68, 0x69] ∧
        bytesFrom { s with buf := m } s.src.toNat s.slen.toNat = wireRecord [0x52, 0x75, 0x73 ^^^ 0x20, 0x74] [0x68, 0x69] ∧
        (∃ t, exec .chunkDecode s = .next t ∧ t.err = 0) ∧
        ∃ t, exec .chunkDecode { s with buf := m } = .next t ∧ t.err = 0) :=
  ⟨⟨by decide, by decide, of_holds (by decide +kernel), of_holds (by decide +kernel)⟩, of_holds (by decide +kernel),
    of_holds (by decide +kernel), of_holds (by decide +kernel), of_holds (by decide +kernel), of_holds (by decide +kernel),
    of_holds (by decide +kernel), by decide +kernel, by decide +kernel, of_holds (by decide +kernel),
    of_holds (by decide +kernel)⟩
theorem witness_NopOnlyClearsTheError : (cmd 0 fresh).host = .regWrite 0x00 0 :: [] := rfl
theorem witness_ChunkNewResult : fresh.tcValid = false ∧
    (let s := range 250 7 (typed 0x49454E44 fresh); s.tcValid = true ∧ s.bufSize < s.src.toNat + s.slen.toNat) ∧
    (let s := range 256 0 (typed 0x49454E44 fresh); s.tcValid = true ∧ s.src.toNat + s.slen.toNat ≤ s.bufSize) := by
  decide +kernel
theorem witness_ChunkEncodeResult : Config.legalBufSize fresh.bufSize ∧ fresh.chValid = false ∧
    (let s := { abcAt 8 with dst := 242 }; s.chValid = true ∧ s.bufSize < s.dst.toNat + (12 + s.chLen.toNat)) ∧
    (let s := { abcAt 8 with dst := 241 }; s.chValid = true ∧ s.dst.toNat + (12 + s.chLen.toNat) ≤ s.bufSize) := by
  decide +kernel

theorem abcAt_inv : Inv { abcAt 8 with dst := 9 } where
  typeLetters h := absurd h (by decide +kernel)
  chunkLetters _ := lettersOnly_of (by decide +kernel)
  chunkInBounds _ := by decide +kernel
  chunkChecksum _ := by decide +kernel
  errProduced := by decide +kernel
  errIndex _ := rfl
  sizeLegal := by decide +kernel
  bufCanonical := by decide +kernel
  bufInside a h := by
    have h : 256 ≤ a := h
    show Memory.find a [(8, 0x61), (9, 0x62), (10, 0x63)] = none
    simp only [Memory.find]
    rw [if_neg (by omega), if_neg (by omega), if_neg (by omega)]
theorem witness_EncoderWritesTheWireRecord : Inv { abcAt 8 with dst := 9 } ∧
    ∃ t, exec .chunkEncode { abcAt 8 with dst := 9 } = .next t ∧ t.err = 0 :=
  ⟨abcAt_inv, of_holds (by decide +kernel)⟩

/-- The six ways through CHUNK_DECODE: past the end of BUF, 11 bytes, 13 bytes of a 12-byte record, a bad type byte, a
wrong checksum, a record. -/
theorem witness_ChunkDecodeResult :
    (let s := decoding iendRecord 193; s.bufSize < s.src.toNat + s.slen.toNat) ∧
    (let s := decoding iendRecord 11; s.src.toNat + s.slen.toNat ≤ s.bufSize ∧ s.slen.toNat < 12) ∧
    (let s := decoding iendRecord 13; s.src.toNat + s.slen.toNat ≤ s.bufSize ∧ 12 ≤ s.slen.toNat ∧
      s.slen.toNat ≠ 12 + numberAt s s.src.toNat) ∧
    (let s := decoding ([0, 0, 0, 0, 0x49, 0x45, 0x31, 0x44, 0, 0, 0, 0]) 12;
      s.src.toNat + s.slen.toNat ≤ s.bufSize ∧ s.slen.toNat = 12 + numberAt s s.src.toNat ∧
        (∀ k, k < 4 → typeByte 0x49453144 k = s.byteAt (s.src.toNat + 4 + k)) ∧ FirstNonLetterAt 0x49453144 2) ∧
    (let s := decoding (iendRecord.take 11 ++ [0x83]) 12;
      s.src.toNat + s.slen.toNat ≤ s.bufSize ∧ s.slen.toNat = 12 + numberAt s s.src.toNat ∧
        (∀ k, k < 4 → typeByte 0x49454E44 k = s.byteAt (s.src.toNat + 4 + k)) ∧ LettersOnly 0x49454E44 ∧
        (crc32 (bytesFrom s (s.src.toNat + 4) (s.slen.toNat - 8))).toNat
          ≠ numberAt s (s.src.toNat + s.slen.toNat - 4)) ∧
    (let s := decoding rustRecord 14;
      s.src.toNat + s.slen.toNat ≤ s.bufSize ∧ s.slen.toNat = 12 + numberAt s s.src.toNat ∧
        (∀ k, k < 4 → typeByte 0x52757374 k = s.byteAt (s.src.toNat + 4 + k)) ∧ LettersOnly 0x52757374 ∧
        (crc32 (bytesFrom s (s.src.toNat + 4) (s.slen.toNat - 8))).toNat
          = numberAt s (s.src.toNat + s.slen.toNat - 4) ∧ Config.legalBufSize s.bufSize) := by
  refine ⟨by decide +kernel, by decide +kernel, by decide +kernel, ⟨by decide +kernel, by decide +kernel,
    by decide +kernel, ?_⟩, ⟨by decide +kernel, by decide +kernel, by decide +kernel, lettersOnly_of (by decide +kernel),
    by decide +kernel⟩, by decide +kernel, by decide +kernel, by decide +kernel, lettersOnly_of (by decide +kernel),
    by decide +kernel⟩
  unfold FirstNonLetterAt IsLetter; decide +kernel
theorem witness_FailedDecodeKeepsTheChunk :
    ∃ t, exec .chunkDecode { abcAt 8 with slen := 11 } = .next t ∧ t.err ≠ 0 := of_holds (by decide +kernel)
theorem witness_DecoderAcceptsExactlyRecords :
    (let s := decoding rustRecord 14; s.src.toNat + s.slen.toNat ≤ s.bufSize) ∧ rustRecord.length < 2 ^ 32 := by
  decide +kernel
/-- R153 with a destination that overlaps the payload. -/
theorem witness_RecordRoundTrip :
    let s := { range 0 3 (typed 0x52755374 (put 0 [0x61, 0x62, 0x63] fresh)) with
      host := [.regWrite 0x00 0x00000003, .regWrite 0x10 1, .regWrite 0x00 0x00000004, .regWrite 0x08 1,
        .regWrite 0x0C 15, .regWrite 0x00 0x00000005] };
    Config.legalBufSize s.bufSize ∧ s.tcValid = true ∧ LettersOnly s.typeReg ∧
      s.src.toNat + s.slen.toNat ≤ s.bufSize ∧ (1 : Word).toNat + (12 + s.slen.toNat) ≤ s.bufSize ∧
      s.host = .regWrite 0x00 0x00000003 :: .regWrite 0x10 1 :: .regWrite 0x00 0x00000004 :: .regWrite 0x08 1 ::
        .regWrite 0x0C (s.slen + 12) :: .regWrite 0x00 0x00000005 :: [] :=
  ⟨by decide +kernel, rfl, lettersOnly_of (by decide +kernel), by decide +kernel, by decide +kernel, by decide +kernel⟩
/-- The highest destination that fits. -/
theorem witness_ReEncodeWritesTheDecodedSpan : Config.legalBufSize (decoding rustRecord 14).bufSize ∧
    (∃ t, exec .chunkDecode (decoding rustRecord 14) = .next t ∧ t.err = 0) ∧
    (242 : Word).toNat + (decoding rustRecord 14).slen.toNat ≤ (decoding rustRecord 14).bufSize :=
  ⟨by decide +kernel, of_holds (by decide +kernel), by decide +kernel⟩
/-- The first type byte and the last payload byte. -/
theorem witness_DecodeDetectsOneCorruptByte :
    let s := decoding rustRecord 14;
    (∃ t, exec .chunkDecode s = .next t ∧ t.err = 0) ∧ s.src.toNat + 4 ≤ 0x44 ∧ 0x49 < s.src.toNat + s.slen.toNat - 4 ∧
      (0x00 : Byte) ≠ s.byteAt 0x44 ∧ (0x00 : Byte) ≠ s.byteAt 0x49 :=
  ⟨of_holds (by decide +kernel), by decide +kernel, by decide +kernel, by decide +kernel, by decide +kernel⟩

theorem wellFormed_euro : WellFormedUtf8 [0xE2, 0x82, 0xAC] := by
  refine ⟨[[0xE2, 0x82, 0xAC]], rfl, fun p hp => ?_⟩
  obtain rfl := List.mem_singleton.1 hp
  refine ⟨((225, 236), [(128, 191), (128, 191)]), by decide, by decide, ?_⟩
  exact .cons (by decide) (.cons (by decide) .nil)
theorem not_wellFormed_ff : ¬ WellFormedUtf8 [0xFF] := by
  rintro ⟨parts, h, hp⟩
  cases parts with
  | nil => cases h
  | cons p ps =>
    obtain ⟨row, hr, hm⟩ := hp p (by simp)
    cases p with
    | nil => exact hm
    | cons b rest =>
      have hb : 0xFF = b := by simpa using congrArg List.head? h
      subst hb
      have : ∀ row ∈ utf8Table, ¬ (row.1.1 ≤ (0xFF : Byte) ∧ (0xFF : Byte) ≤ row.1.2) := by decide
      exact this row hr hm.1
theorem witness_ChunkTextResult : fresh.chValid = false ∧
    (let s := put 8 [0xFF] (chunk 0x74455874 8 1 0 fresh);
      s.chValid = true ∧ ¬ WellFormedUtf8 (bytesFrom s s.chAddr.toNat s.chLen.toNat)) ∧
    (let s := put 8 [0xE2, 0x82, 0xAC] (chunk 0x74455874 8 3 0 fresh);
      s.chValid = true ∧ WellFormedUtf8 (bytesFrom s s.chAddr.toNat s.chLen.toNat)) := by
  refine ⟨rfl, ⟨rfl, ?_⟩, rfl, ?_⟩
  · exact (show bytesFrom (put 8 [0xFF] (chunk 0x74455874 8 1 0 fresh)) 8 1 = [0xFF] by decide +kernel) ▸ not_wellFormed_ff
  · have h : bytesFrom (put 8 [0xE2, 0x82, 0xAC] (chunk 0x74455874 8 3 0 fresh)) 8 3 = [0xE2, 0x82, 0xAC] := by
      decide +kernel
    exact h ▸ wellFormed_euro

/-- Every command answers on a state with a chunk; CHUNK_ENCODE also with an error. -/
theorem witness_CommandFrames :
    (every [.nop, .tcLoad, .tcLoadStr, .chunkNew, .chunkEncode, .chunkDecode, .chunkText, .crcInit, .crcUpdate] fun i =>
      holds (exec i (abcAt 8)) fun _ => true) ∧
    ∃ t, exec .chunkEncode { abcAt 8 with dst := 255 } = .next t ∧ t.err ≠ 0 :=
  ⟨by decide +kernel, of_holds (by decide +kernel)⟩
theorem witness_ErrorCodesOfEachCommand : ∃ t, exec .chunkText (abcAt 8) = .next t ∧ t.err ≠ 1 :=
  of_holds (by decide +kernel)
theorem witness_InvariantsHoldAtReset : Config.legalBufSize 12 ∧ Config.legalBufSize (2 ^ 32 - 1) := by decide
theorem witness_InvariantsHoldAfterEveryAction : Inv (cmd 0x00000004 { abcAt 8 with dst := 9 }) ∧
    ∃ t, step (cmd 0x00000004 { abcAt 8 with dst := 9 }) = .next t ∧ t.chValid = false :=
  ⟨⟨abcAt_inv.typeLetters, abcAt_inv.chunkLetters, abcAt_inv.chunkInBounds, abcAt_inv.chunkChecksum,
    abcAt_inv.errProduced, abcAt_inv.errIndex, abcAt_inv.sizeLegal, abcAt_inv.bufCanonical, abcAt_inv.bufInside⟩,
    of_holds (by decide +kernel)⟩
/-- The byte just past the record that CHUNK_ENCODE writes. -/
theorem witness_ByteKeepsItsValueUntilWritten :
    let s := cmd 0x00000004 (abcAt 8);
    s.host = .regWrite 0x00 0x00000004 :: [] ∧ (∃ t, step s = .next t ∧ t.outLen = 15) ∧
      ¬ (s.dst.toNat ≤ 15 ∧ 15 < s.dst.toNat + (12 + s.chLen.toNat)) :=
  ⟨rfl, of_holds (by decide +kernel), by decide +kernel⟩
theorem witness_OnlyCommandsChangeTheError :
    let s := act (.regWrite 0x04 0) { abcAt 8 with err := 6 };
    s.host = .regWrite 0x04 0 :: [] ∧ ∃ t, step s = .next t ∧ t.err = 6 := ⟨rfl, of_holds (by decide +kernel)⟩
theorem witness_TypeCodeStaysUntilLoadedOrReset :
    (let s := cmd 0x00000001 (typed 0x52755374 fresh);
      s.host = .regWrite 0x00 0x00000001 :: [] ∧ s.tcValid = true ∧ ∃ t, step s = .next t ∧ t.err = 1) ∧
    (let s := cmd 0x00000001 { fresh with typeIn := 0x52755374 };
      s.host = .regWrite 0x00 0x00000001 :: [] ∧
        ∃ t, step s = .next t ∧ (t.typeReg ≠ s.typeReg ∨ t.tcValid ≠ s.tcValid)) :=
  ⟨⟨rfl, rfl, of_holds (by decide +kernel)⟩, rfl, of_holds (by decide +kernel)⟩
theorem witness_ChunkValidityChangesOnlyAsStated :
    (let s := cmd 0x00000005 (decoding iendRecord 12);
      s.host = .regWrite 0x00 0x00000005 :: [] ∧ s.chValid = false ∧ ∃ t, step s = .next t ∧ t.chValid = true) ∧
    (let s := act (.bufWrite 10 0x63) (abcAt 8);
      s.host = .bufWrite 10 0x63 :: [] ∧ s.chValid = true ∧ ∃ t, step s = .next t ∧ t.chValid = false) :=
  ⟨⟨rfl, rfl, of_holds (by decide +kernel)⟩, rfl, rfl, of_holds (by decide +kernel)⟩
/-- A write just past the payload, and a decode that puts another chunk in place. -/
theorem witness_ValidChunkNeverChanges :
    (let s := act (.bufWrite 11 0x00) (abcAt 8);
      s.host = .bufWrite 11 0x00 :: [] ∧ ∃ t, step s = .next t ∧ t.chValid = true) ∧
    (let s := cmd 0x00000005 (decoding iendRecord 12);
      s.host = .regWrite 0x00 0x00000005 :: [] ∧ ∃ t, step s = .next t ∧ t.chValid = true) :=
  ⟨⟨rfl, of_holds (by decide +kernel)⟩, rfl, of_holds (by decide +kernel)⟩
/-- Another byte just past the range that the command reads. -/
theorem witness_CommandsReadOnlyTheirRange :
    (let s := { abcAt 8 with src := 8, slen := 3 };
      let m := Memory.write 11 0xFF s.buf;
      (∀ x, s.src.toNat ≤ x → x < s.src.toNat + s.slen.toNat → State.byteAt { s with buf := m } x = s.byteAt x) ∧
        (∃ t, exec .crcUpdate s = .next t ∧ t.err = 0) ∧ ∃ t, exec .crcUpdate { s with buf := m } = .next t ∧ t.err = 0) ∧
    (let s := abcAt 8;
      let m := Memory.write 11 0xFF s.buf;
      (∀ x, s.chAddr.toNat ≤ x → x < s.chAddr.toNat + s.chLen.toNat →
          State.byteAt { s with buf := m } x = s.byteAt x) ∧
        (∃ t, exec .chunkEncode s = .next t ∧ t.err = 0) ∧
        ∃ t, exec .chunkEncode { s with buf := m } = .next t ∧ t.err = 0) := by
  have h : ∀ x, 8 ≤ x → x < 11 → Memory.find x (Memory.write 11 0xFF (abcAt 8).buf) = Memory.find x (abcAt 8).buf := by
    intro x _ _; rw [Memory.find_write, if_neg (by omega)]
  refine ⟨⟨fun x h1 h2 => ?_, of_holds (by decide +kernel), of_holds (by decide +kernel)⟩,
    fun x h1 h2 => ?_, of_holds (by decide +kernel), of_holds (by decide +kernel)⟩ <;>
  · have e := h x h1 h2
    simp only [State.byteAt]
    rw [e]
theorem witness_StreamSurvivesOtherCommands :
    Instr.chunkEncode ≠ .crcInit ∧ Instr.chunkEncode ≠ .crcUpdate ∧ ∃ t, exec .chunkEncode (abcAt 8) = .next t ∧ t.err = 0 :=
  ⟨by decide, by decide, of_holds (by decide +kernel)⟩

end Sys2Proof.Tests
end

section
/-! PROOFS. Byte order and the packing of a type code (R15, R16). -/

namespace Sys2Proof.Machine

open Sys2Proof.Safety

/-- A byte appended below a number is its new low digit in base 256. -/
theorem toNat_append_byte {n : Nat} (x : BitVec n) (b : Byte) : (x ++ b).toNat = x.toNat * 2 ^ 8 + b.toNat := by
  rw [BitVec.toNat_append, ← Nat.shiftLeft_add_eq_or_of_lt b.isLt, Nat.shiftLeft_eq]

/-- R15, `be32` as a number. -/
theorem be32_toNat (b0 b1 b2 b3 : Byte) :
    (be32 [b0, b1, b2, b3]).toNat = b0.toNat * 2 ^ 24 + b1.toNat * 2 ^ 16 + b2.toNat * 2 ^ 8 + b3.toNat := by
  simp only [be32, toNat_append_byte]
  omega

/-- R15, `to_be32` as numbers. -/
theorem toBe32_eq_ofNat (v : Word) :
    toBe32 v = [BitVec.ofNat 8 (v.toNat / 2 ^ 24), BitVec.ofNat 8 (v.toNat / 2 ^ 16), BitVec.ofNat 8 (v.toNat / 2 ^ 8),
      BitVec.ofNat 8 v.toNat] := by
  simp only [toBe32, BitVec.extractLsb', Nat.shiftRight_eq_div_pow, Nat.pow_zero, Nat.div_one]

theorem be32_toBe32 (v : Word) : be32 (toBe32 v) = v := by
  apply BitVec.eq_of_toNat_eq
  rw [toBe32_eq_ofNat, be32_toNat]
  simp only [BitVec.toNat_ofNat]
  omega

theorem toBe32_be32 {s : List Byte} (h : s.length = 4) : toBe32 (be32 s) = s := by
  obtain ⟨b0, b1, b2, b3, rfl⟩ := List.length_eq_four.mp h
  rw [toBe32_eq_ofNat, be32_toNat]
  simp only [List.cons.injEq, and_true]
  refine ⟨?_, ?_, ?_, ?_⟩ <;> bv_omega

/-- Bit `i` of type byte `k` is bit `24 - 8k + i` of the word (R16). -/
theorem typeByte_getLsbD (t : Word) (k : Nat) {i : Nat} (h : i < 8) :
    (typeByte t k).getLsbD i = t.getLsbD (24 - 8 * k + i) := by
  simp [typeByte, h]

theorem bytesOf_eq_typeBytes (t : Word) : bytesOf t = [typeByte t 0, typeByte t 1, typeByte t 2, typeByte t 3] := rfl

end Sys2Proof.Machine

open Sys2Proof Sys2Proof.Machine Sys2Proof.Safety

/-- Settles O13: both helpers as numbers; the inverses then hold digit by digit. -/
theorem bigEndianHelpersAreInverse : Obligations.BigEndianHelpersAreInverse :=
  ⟨be32_toNat, toBe32_eq_ofNat, be32_toBe32, fun _ h => toBe32_be32 h⟩

/-- Settles O14: `bytes_of` and `pack` are the big-endian helpers, so their inverses are those of O13. -/
theorem typeCodePacking : Obligations.TypeCodePacking := by
  refine ⟨fun t => ⟨bytesOf_eq_typeBytes t, be32_toBe32 t⟩, fun t k hk => ?_, fun s h => toBe32_be32 h⟩
  have hbit : 24 - 8 * k + 5 = 29 - 8 * k := by omega
  rw [typeByte_getLsbD t k (by decide), hbit]

end

section
/-! PROOFS. Every command and every host action completes, and what a command can end in (R8, R181). -/

namespace Sys2Proof.Machine

theorem ErrorKind.code_ne_zero (e : ErrorKind) : e.code ≠ 0 := by
  cases e <;> decide

/-- The two ways in which a command started in `s` can end (R181). -/
inductive CommandEnds (s : State) : State → Prop
  /-- The end of the command's body, after its writes. -/
  | success (u : State) : CommandEnds s u.succeed
  /-- `raise Error(code, idx)`. -/
  | error (e : ErrorKind) (idx : BitVec 2) : CommandEnds s (s.raiseAt e idx)

theorem CommandEnds.raise (s : State) (e : ErrorKind) : CommandEnds s (s.raise e) := .error e 0

/-- R181, what the two ends are in STATUS and in the rest of the state. -/
theorem CommandEnds.status {s t : State} (h : CommandEnds s t) :
    t.err = 0 ∧ t.errIdx = 0 ∨ t.err ≠ 0 ∧ t = { s with err := t.err, errIdx := t.errIdx } := by
  cases h with
  | success u => exact .inl ⟨rfl, rfl⟩
  | error e idx => exact .inr ⟨e.code_ne_zero, rfl⟩

/-- A command that answers a state has ended in one of the two ways (R181). -/
theorem exec_ends {i : Instr} {s t : State} (h : exec i s = .next t) : CommandEnds s t := by
  cases i with
  | nop => rw [execNop_cases h]; exact .success s
  | tcLoad =>
    obtain ⟨k, -, rfl⟩ | ⟨-, rfl⟩ := execTcLoad_cases h
    exacts [.error _ k, .success _]
  | tcLoadStr =>
    obtain ⟨-, rfl⟩ | ⟨-, -, rfl⟩ | ⟨-, -, k, -, rfl⟩ | ⟨-, -, -, rfl⟩ := execTcLoadStr_cases h
    exacts [.raise s _, .raise s _, .error _ k, .success _]
  | chunkNew =>
    obtain ⟨-, rfl⟩ | ⟨-, -, rfl⟩ | ⟨-, -, rfl⟩ := execChunkNew_cases h
    exacts [.raise s _, .raise s _, .success _]
  | chunkEncode =>
    obtain ⟨-, rfl⟩ | ⟨-, -, rfl⟩ | ⟨-, -, rfl⟩ := execChunkEncode_cases h
    exacts [.raise s _, .raise s _, .success _]
  | chunkDecode =>
    obtain ⟨-, rfl⟩ | ⟨-, -, rfl⟩ | ⟨-, -, -, rfl⟩ | ⟨-, -, k, -, rfl⟩ | ⟨-, -, -, -, rfl⟩ | ⟨-, -, -, -, rfl⟩ :=
      execChunkDecode_cases h
    exacts [.raise s _, .raise s _, .raise s _, .error _ k, .raise s _, .success _]
  | chunkText =>
    obtain ⟨-, rfl⟩ | ⟨-, -, rfl⟩ | ⟨-, -, rfl⟩ := execChunkText_cases h
    exacts [.raise s _, .raise s _, .success _]
  | crcInit => rw [execCrcInit_cases h]; exact .success _
  | crcUpdate =>
    obtain ⟨-, rfl⟩ | ⟨-, rfl⟩ := execCrcUpdate_cases h
    exacts [.raise s _, .success _]

/-- R8 for commands: every path of every body ends in a next state. -/
theorem exec_total (i : Instr) (s : State) : ∃ t, exec i s = .next t := by
  cases i with
  | nop => exact ⟨_, rfl⟩
  | tcLoad => simp only [exec, execTcLoad]; split <;> exact ⟨_, rfl⟩
  | tcLoadStr => simp only [exec, execTcLoadStr]; (repeat' split) <;> exact ⟨_, rfl⟩
  | chunkNew => simp only [exec, execChunkNew]; (repeat' split) <;> exact ⟨_, rfl⟩
  | chunkEncode => simp only [exec, execChunkEncode]; (repeat' split) <;> exact ⟨_, rfl⟩
  | chunkDecode => simp only [exec, execChunkDecode]; (repeat' split) <;> exact ⟨_, rfl⟩
  | chunkText => simp only [exec, execChunkText]; (repeat' split) <;> exact ⟨_, rfl⟩
  | crcInit => exact ⟨_, rfl⟩
  | crcUpdate => simp only [exec, execCrcUpdate]; split <;> exact ⟨_, rfl⟩

/-- R84: a command word completes, legal or not. -/
theorem runCommandWord_total (v : Word) (s : State) : ∃ t, runCommandWord v s = .next t := by
  unfold runCommandWord
  split
  · exact exec_total _ s
  · exact ⟨_, rfl⟩

theorem regWrite_total (off : Nat) (v : Word) (s : State) : ∃ t, regWrite off v s = .next t := by
  unfold regWrite
  split
  · exact runCommandWord_total v s
  all_goals exact ⟨_, rfl⟩

theorem bufWrite_total (a : Nat) (b : Byte) (s : State) : ∃ t, bufWrite a b s = .next t := by
  unfold bufWrite
  split <;> exact ⟨_, rfl⟩

/-- R8 for host actions. -/
theorem hostAct_total (a : HostAction) (s : State) : ∃ t, hostAct a s = .next t := by
  cases a with
  | regRead off => exact ⟨_, rfl⟩
  | regWrite off v => exact regWrite_total off v s
  | bufRead x => exact ⟨_, rfl⟩
  | bufWrite x b => exact bufWrite_total x b s
  | reset => exact ⟨_, rfl⟩

theorem step_total (s : State) : ∃ t, step s = .next t := by
  cases h : s.host with
  | nil => exact ⟨s, by rw [step, h]⟩
  | cons a rest => rw [step_cons h]; exact hostAct_total a _

end Sys2Proof.Machine

open Sys2Proof Sys2Proof.Machine

/-- Settles O41: steps and commands are total, and a command ends in `succeed` or in `raiseAt` of its first state. -/
theorem everyActionCompletes : Obligations.EveryActionCompletes := by
  refine ⟨step_total, fun i s => ?_⟩
  obtain ⟨t, ht⟩ := exec_total i s
  exact ⟨t, ht, (exec_ends ht).status⟩

end

section
/-! PROOFS. What a command leaves behind, said once for all nine (R82, R181). -/

namespace Sys2Proof.Machine

open Sys2Proof.Safety

/-- What a command writes when it succeeds, beside ERR and ERR_IDX: the last column of R82's table. -/
inductive Target where
  /-- nothing more -/
  | statusOnly
  /-- TYPE and TC_VALID -/
  | typeCode
  /-- CRC_STATE -/
  | stream
  /-- CH_TYPE, CH_ADDR, CH_LEN, CH_CRC and CH_VALID -/
  | chunk
  /-- BUF, OUT_LEN and, where the record meets the payload, CH_VALID -/
  | record

/-- R82's table, from command to what it writes. -/
def target : Instr → Target
  | .nop | .chunkText => .statusOnly
  | .tcLoad | .tcLoadStr => .typeCode
  | .crcInit | .crcUpdate => .stream
  | .chunkNew | .chunkDecode => .chunk
  | .chunkEncode => .record

/-- I2, I3 and I4 of R48 for chunk registers that hold `ty`, `a`, `n` and `c`. -/
structure SoundChunk (s : State) (ty a n c : Word) : Prop where
  letters : LettersOnly ty
  inBounds : a.toNat + n.toNat ≤ s.bufSize
  checksum : c = crc32 (bytesOf ty ++ bytesFrom s a.toNat n.toNat)

/-- The state that a command started in `s` ends in, by what it writes. -/
inductive CommandEffect (s : State) : Target → State → Prop
  /-- an error, whose index is 0 unless it is BAD_TYPE_BYTE (R180, R181) -/
  | error {w : Target} (e : ErrorKind) (k : BitVec 2) (index : e ≠ .badTypeByte → k = 0) :
      CommandEffect s w (s.raiseAt e k)
  /-- R140, R161 -/
  | succeed : CommandEffect s .statusOnly s.succeed
  /-- R130, R131: a type code is loaded only if it holds four letters -/
  | load (ty : Word) (letters : LettersOnly ty) : CommandEffect s .typeCode (s.loadType ty).succeed
  /-- R104, R105 -/
  | feed (r : Word) : CommandEffect s .stream (s.setCrcState r).succeed
  /-- R143, R150: the new chunk meets the invariants where the state does -/
  | bind (ty a n c : Word) (sound : Inv s → SoundChunk s ty a n c) :
      CommandEffect s .chunk (s.bindChunk ty a n c).succeed
  /-- R145: the record ends inside BUF -/
  | encode (valid : s.chValid = true) (fits : s.dst.toNat + s.encoded.length ≤ s.bufSize) :
      CommandEffect s .record
        ((s.memWrite s.dstAddr s.encoded).setOutLen (BitVec.ofNat 32 s.recordLen)).succeed

theorem CommandEffect.raise {s : State} {w : Target} (e : ErrorKind) : CommandEffect s w (s.raise e) :=
  .error e 0 fun _ => rfl

theorem CommandEffect.badTypeByte {s : State} {w : Target} (k : BitVec 2) :
    CommandEffect s w (s.raiseAt .badTypeByte k) :=
  .error _ k (absurd rfl)

theorem lettersOnly_pack {bs : List Byte} (hl : bs.length = 4) (h : validate bs = none) : LettersOnly (pack bs) :=
  (validate_none_iff _).mp (by rwa [bytesOf, pack, toBe32_be32 hl])

theorem sourceInBounds_iff (s : State) : s.sourceInBounds = true ↔ s.src.toNat + s.slen.toNat ≤ s.bufSize :=
  inBounds_iff ..

/-- R143: the chunk that CHUNK_NEW makes has the loaded type code and the source range as its payload. -/
theorem soundChunk_new {s : State} (hv : s.tcValid = true) (hb : s.sourceInBounds = true) (h : Inv s) :
    SoundChunk s s.typeReg s.src s.slen (crc32 (bytesOf s.typeReg ++ s.source)) where
  letters := h.typeLetters hv
  inBounds := (sourceInBounds_iff s).mp hb
  checksum := by rw [State.source, State.memRead_eq_bytesFrom]; rfl

/-- R150: a record in bounds has its payload at SRC + 8, which fits 32 bits, and its checksum field was compared. -/
theorem soundChunk_decode {s : State} (hb : s.sourceInBounds = true) (hl : s.srcLen = 12 + s.declaredLen.toNat)
    (hv : validate s.spanType = none) (hc : crc32 (s.spanType ++ s.spanPayload) = s.spanCrc) (h : Inv s) :
    SoundChunk s (pack s.spanType) (BitVec.ofNat 32 (s.srcAddr + 8)) s.declaredLen s.spanCrc := by
  have hbound : s.srcAddr + s.srcLen ≤ s.bufSize := (sourceInBounds_iff s).mp hb
  have hsize := h.sizeLegal.2
  have haddr : (BitVec.ofNat 32 (s.srcAddr + 8)).toNat = s.srcAddr + 8 := by
    rw [BitVec.toNat_ofNat, Nat.mod_eq_of_lt (by omega)]
  have htype : bytesOf (pack s.spanType) = s.spanType := toBe32_be32 (State.memRead_length ..)
  exact {
    letters := lettersOnly_pack (State.memRead_length ..) hv
    inBounds := by rw [haddr]; omega
    checksum := by rw [haddr, htype, ← State.memRead_eq_bytesFrom]; exact hc.symm }

/-- Every command that answers a state ends in one that its row of R82's table allows. -/
theorem exec_effect {i : Instr} {s t : State} (h : exec i s = .next t) : CommandEffect s (target i) t := by
  cases i with
  | nop => rw [execNop_cases h]; exact .succeed
  | tcLoad =>
    obtain ⟨k, -, rfl⟩ | ⟨hv, rfl⟩ := execTcLoad_cases h
    exacts [.badTypeByte k, .load _ ((validate_none_iff _).mp hv)]
  | tcLoadStr =>
    obtain ⟨-, rfl⟩ | ⟨-, -, rfl⟩ | ⟨-, -, k, -, rfl⟩ | ⟨-, -, hv, rfl⟩ := execTcLoadStr_cases h
    exacts [.raise _, .raise _, .badTypeByte k, .load _ (lettersOnly_pack (State.memRead_length ..) hv)]
  | chunkNew =>
    obtain ⟨-, rfl⟩ | ⟨-, -, rfl⟩ | ⟨hv, hb, rfl⟩ := execChunkNew_cases h
    exacts [.raise _, .raise _, .bind _ _ _ _ (soundChunk_new hv hb)]
  | chunkEncode =>
    obtain ⟨-, rfl⟩ | ⟨-, -, rfl⟩ | ⟨hv, hb, rfl⟩ := execChunkEncode_cases h
    exacts [.raise _, .raise _, .encode hv (by rw [State.encoded_length]; exact (inBounds_iff ..).mp hb)]
  | chunkDecode =>
    obtain ⟨-, rfl⟩ | ⟨-, -, rfl⟩ | ⟨-, -, -, rfl⟩ | ⟨-, -, k, -, rfl⟩ | ⟨-, -, -, -, rfl⟩ | ⟨hb, hl, hv, hc, rfl⟩ :=
      execChunkDecode_cases h
    exacts [.raise _, .raise _, .raise _, .badTypeByte k, .raise _, .bind _ _ _ _ (soundChunk_decode hb hl hv hc)]
  | chunkText =>
    obtain ⟨-, rfl⟩ | ⟨-, -, rfl⟩ | ⟨-, -, rfl⟩ := execChunkText_cases h
    exacts [.raise _, .raise _, .succeed]
  | crcInit => rw [execCrcInit_cases h]; exact .feed _
  | crcUpdate =>
    obtain ⟨-, rfl⟩ | ⟨-, rfl⟩ := execCrcUpdate_cases h
    exacts [.raise _, .feed _]

/-- R82, R145: the updates of a successful CHUNK_ENCODE reach no register but OUT_LEN, and no bit but CH_VALID. -/
theorem recordWrite_frame (s : State) (a : Nat) (bs : List Byte) (n : Word) :
    let t := ((s.memWrite a bs).setOutLen n).succeed
    t = { s with buf := t.buf, chValid := t.chValid, outLen := t.outLen, err := t.err, errIdx := t.errIdx } := rfl

end Sys2Proof.Machine

open Sys2Proof Sys2Proof.Machine

/-- Settles O45: an error changes STATUS alone, and a success is the named updates of the command's row; CHUNK_ENCODE
stores 12 + CH_LEN bytes from DST. -/
theorem commandFrames : Obligations.CommandFrames := by
  intro s t
  refine ⟨fun i hi h => ?_, fun i hi h => ?_, fun i hi h => ?_, fun i hi h => ?_, fun h => ?_⟩
  · have effect : CommandEffect s .statusOnly t := by obtain rfl | rfl := hi <;> exact exec_effect h
    cases effect with
    | error => exact ⟨rfl, fun _ => rfl⟩
    | succeed => exact ⟨rfl, fun _ => rfl⟩
  · have effect : CommandEffect s .typeCode t := by obtain rfl | rfl := hi <;> exact exec_effect h
    cases effect with
    | error => exact ⟨rfl, fun _ => rfl⟩
    | load => exact ⟨rfl, fun _ => rfl⟩
  · have effect : CommandEffect s .stream t := by obtain rfl | rfl := hi <;> exact exec_effect h
    cases effect with
    | error => exact ⟨rfl, fun _ => rfl⟩
    | feed => exact ⟨rfl, fun _ => rfl⟩
  · have effect : CommandEffect s .chunk t := by obtain rfl | rfl := hi <;> exact exec_effect h
    cases effect with
    | error => exact ⟨rfl, fun _ => rfl⟩
    | bind => exact ⟨rfl, fun _ => rfl⟩
  · have effect : CommandEffect s .record t := exec_effect h
    cases effect with
    | error => exact ⟨rfl, fun _ _ => rfl, fun _ _ => rfl⟩
    | encode valid fits =>
      refine ⟨recordWrite_frame .., absurd (State.succeed_err _), fun a ha => ?_⟩
      have hdst : s.dstAddr = s.dst.toNat := rfl
      have hout : ¬ (s.dstAddr ≤ a ∧ a < s.dstAddr + s.encoded.length) := by
        rw [State.encoded_length]
        omega
      rw [State.byteAt_succeed, State.byteAt_setOutLen, State.byteAt_memWrite, dif_neg hout]

end

section
/-! PROOFS. The register port and the command words that reach it (R21 to R26, R81, R83). -/

namespace Sys2Proof

theorem ofOpcode_eq_ok {op : BitVec 8} {i : Instr} (h : ofOpcode op = .ok i) : op = opcode i := by
  unfold ofOpcode at h
  split at h <;> cases h <;> exact BitVec.eq_of_toNat_eq ‹_›

/-- A word is its MBZ field above its OP field (R81). -/
theorem mbzField_append_opField (v : Word) : mbzField v ++ opField v = v := by
  apply BitVec.eq_of_getLsbD_eq
  intro i hi
  rw [BitVec.getLsbD_append, mbzField, opField, BitVec.getLsbD_extractLsb', BitVec.getLsbD_extractLsb']
  by_cases h : i < 8
  · simp [h]
  · have hlen : i - 8 < 24 := by omega
    have hbit : 8 + (i - 8) = i := by omega
    simp [h, hlen, hbit]

/-- R81, R83: the decoder drops no bit, so a command has one word. -/
theorem eq_encode_of_decode {v : Word} {i : Instr} (h : decode v = .ok i) : v = encode i := by
  unfold decode at h
  split at h
  · cases h
  · have hm : mbzField v = 0 := of_not_not ‹_›
    rw [← mbzField_append_opField v, hm, ofOpcode_eq_ok h]
    rfl

namespace Machine

theorem runCommandWord_legal {v : Word} {i : Instr} (h : decode v = .ok i) (s : State) :
    runCommandWord v s = exec i s := by
  unfold runCommandWord
  rw [h]

/-- R21: a misaligned offset and one past the map of R25 are unmapped. -/
theorem regAt_unmapped {off : Nat} (h : off % 4 ≠ 0 ∨ 0x40 ≤ off) : regAt off = none := by
  unfold regAt
  split
  case h_17 => rfl
  all_goals omega

end Machine

end Sys2Proof

open Sys2Proof Sys2Proof.Machine

/-- Settles O4: the step takes the action off the list, and the write to CMD is `exec` of the decoded command. -/
theorem stepRunsTheCommandWritten : Obligations.StepRunsTheCommandWritten := fun _ _ _ _ hs hd =>
  (step_cons hs).trans (runCommandWord_legal hd _)

/-- Settles O6: one branch of `regWrite` for each clause. -/
theorem registerWriteStoresOnlyOperands : Obligations.RegisterWriteStoresOnlyOperands := by
  intro s rest off v hs
  rw [step_cons hs]
  refine ⟨?src, ?slen, ?dst, ?typeIn, ?legal, ?illegal, ?ignored⟩
  case legal => rintro rfl i hd; exact runCommandWord_legal hd _
  case illegal => rintro rfl hd; exact runCommandWord_illegal hd _
  case ignored => exact fun hoff => regWrite_ignored hoff v _
  all_goals rintro rfl; rfl

/-- Settles O7: the answer is `regValue`, which the map of R25 gives at each offset. -/
theorem registerReadReturnsTheValue : Obligations.RegisterReadReturnsTheValue := by
  intro s rest off hs
  refine ⟨s.regValue off, step_cons hs, ?_, ?_, ?_, ?_, ?_, ?_, ?_, ?_, ?_, ?_, ?_, ?_, ?_, ?_, ?_, ?_, ?unmapped⟩
  case unmapped =>
    intro hoff
    rw [State.regValue, regAt_unmapped hoff]
  all_goals rintro rfl; rfl

end

section
/-! PROOFS. The views STATUS, TFLAGS and CFLAGS, bit for bit (R27, R33, R38, R123 to R128). -/

namespace Sys2Proof.Machine

open Sys2Proof.Safety

/-- R27: which field each bit of STATUS shows. -/
theorem State.status_getLsbD (s : State) (i : Nat) :
    s.status.getLsbD i = (s.err.getLsbD i || decide (4 ≤ i) && s.errIdx.getLsbD (i - 4) ||
      decide (i = 8) && s.tcValid || decide (i = 9) && s.chValid) := by
  simp only [State.status, BitVec.getLsbD_or, BitVec.getLsbD_shiftLeft, BitVec.truncate_eq_setWidth,
    BitVec.getLsbD_setWidth, BitVec.getLsbD_ofBool]
  grind

/-- R27: bits 7:6 and 31:10 read 0. -/
theorem State.status_getLsbD_reserved (s : State) {i : Nat} (h : 6 ≤ i ∧ i < 8 ∨ 10 ≤ i) :
    s.status.getLsbD i = false := by
  have h8 : i ≠ 8 := by omega
  have h9 : i ≠ 9 := by omega
  rw [s.status_getLsbD, BitVec.getLsbD_of_ge s.err i (by omega), BitVec.getLsbD_of_ge s.errIdx _ (by omega)]
  simp [h8, h9]

theorem State.status_err (s : State) : s.status.extractLsb' 0 4 = s.err := by
  ext i hi
  have h4 : ¬ 4 ≤ i := by omega
  have h8 : i ≠ 8 := by omega
  have h9 : i ≠ 9 := by omega
  simp [s.status_getLsbD, hi, h4, h8, h9]

theorem State.status_errIdx (s : State) : s.status.extractLsb' 4 2 = s.errIdx := by
  ext i hi
  have h8 : 4 + i ≠ 8 := by omega
  have h9 : 4 + i ≠ 9 := by omega
  simp [s.status_getLsbD, hi, h8, h9]

theorem State.status_reserved_low (s : State) : s.status.extractLsb' 6 2 = 0 := by
  ext i hi
  have hres : s.status.getLsbD (6 + i) = false := s.status_getLsbD_reserved (by omega)
  simp [hres]

theorem State.status_reserved_high (s : State) : s.status.extractLsb' 10 22 = 0 := by
  ext i hi
  have hres : s.status.getLsbD (10 + i) = false := s.status_getLsbD_reserved (by omega)
  simp [hres]

/-- Five bits in a row, the first one the most significant. -/
theorem ofBool_append_getLsbD : ∀ b4 b3 b2 b1 b0 : Bool,
    let f : BitVec 5 :=
      BitVec.ofBool b4 ++ BitVec.ofBool b3 ++ BitVec.ofBool b2 ++ BitVec.ofBool b1 ++ BitVec.ofBool b0
    f.getLsbD 0 = b0 ∧ f.getLsbD 1 = b1 ∧ f.getLsbD 2 = b2 ∧ f.getLsbD 3 = b3 ∧ f.getLsbD 4 = b4 := by
  decide

/-- R124: the place of each flag in the flag vector. -/
theorem flags_getLsbD (t : Word) :
    (flags t).getLsbD 0 = critical t ∧ (flags t).getLsbD 1 = isPublic t ∧ (flags t).getLsbD 2 = reservedValid t ∧
      (flags t).getLsbD 3 = safeToCopy t ∧ (flags t).getLsbD 4 = isValid t :=
  ofBool_append_getLsbD ..

/-- R33, R38: a view that shows the flags of `t` takes each from bit 5 of its own type byte (R125 to R128). -/
theorem flags_view_fields (t : Word) :
    let view : Word := (flags t).zeroExtend 32
    view.getLsbD 0 = !(typeByte t 0).getLsbD 5 ∧ view.getLsbD 1 = !(typeByte t 1).getLsbD 5 ∧
      view.getLsbD 2 = !(typeByte t 2).getLsbD 5 ∧ view.getLsbD 3 = (typeByte t 3).getLsbD 5 ∧
      view.getLsbD 4 = !(typeByte t 2).getLsbD 5 ∧ view.extractLsb' 5 27 = 0 := by
  intro view
  obtain ⟨h0, h1, h2, h3, h4⟩ := flags_getLsbD t
  have hres : view.extractLsb' 5 27 = 0 := by
    ext i hi
    simp [view]
  simp only [typeByte_getLsbD t _ (by decide : 5 < 8)]
  exact ⟨h0, h1, h2, h3, h4, hres⟩

theorem State.tflags_of_valid {s : State} (h : s.tcValid = true) : s.tflags = (flags s.typeReg).zeroExtend 32 :=
  if_pos h

theorem State.tflags_of_invalid {s : State} (h : s.tcValid = false) : s.tflags = 0 := by
  simp [State.tflags, h]

theorem State.cflags_of_valid {s : State} (h : s.chValid = true) : s.cflags = (flags s.chType).zeroExtend 32 :=
  if_pos h

theorem State.cflags_of_invalid {s : State} (h : s.chValid = false) : s.cflags = 0 := by
  simp [State.cflags, h]

end Sys2Proof.Machine

open Sys2Proof Sys2Proof.Machine

/-- Settles O15: the fields of STATUS one by one; its offset is none that a write reaches. -/
theorem statusShowsItsFields : Obligations.StatusShowsItsFields := by
  intro s
  have htc : s.status.getLsbD 8 = s.tcValid := by rw [s.status_getLsbD]; simp
  have hch : s.status.getLsbD 9 = s.chValid := by rw [s.status_getLsbD]; simp
  exact ⟨s.status_err, s.status_errIdx, s.status_reserved_low, htc, hch, s.status_reserved_high, fun _ => rfl, rfl⟩

/-- Settles O16: both views show the flag vector of a type code while its valid bit is set. -/
theorem flagViewsReadTypeByteBits : Obligations.FlagViewsReadTypeByteBits := by
  refine ⟨rfl, rfl, fun s => ⟨State.tflags_of_invalid, fun h => ?_, State.cflags_of_invalid, fun h => ?_⟩⟩
  · rw [State.tflags_of_valid h]
    exact flags_view_fields s.typeReg
  · rw [State.cflags_of_valid h]
    exact flags_view_fields s.chType

end

section
/-! PROOFS. What one host action does, and that ERR, the loaded type code and the current chunk change only by the
actions that the spec names (R23, R42, R43, R47, R67). -/

namespace Sys2Proof.Machine

open Sys2Proof.Safety

/-- The state that a host action ends in. `hostAct_cases` also tells which read or register write is which; here they are
one kind, since no register, bit or byte that a command writes can change over them. -/
inductive ActionEffect (s : State) : HostAction → State → Prop
  /-- a read, a write of an operand register, or an action that is ignored -/
  | quiet (act : HostAction) (src slen dst typeIn : Word) (answer : HostAnswer) :
      ActionEffect s act { s with src := src, slen := slen, dst := dst, typeIn := typeIn, answer := answer }
  /-- a BufWrite inside BUF (R62) -/
  | store (x : Nat) (b : Byte) (inside : x < s.bufSize) : ActionEffect s (.bufWrite x b) (s.memWrite x [b])
  /-- R200 -/
  | reset : ActionEffect s .reset s.resetCore
  /-- a write to CMD of a word that is no command (R84) -/
  | illegal (v : Word) : ActionEffect s (.regWrite 0x00 v) (s.raise .illegalCommand)
  /-- a write to CMD of a command's word (R26) -/
  | command {w : Target} {t : State} (i : Instr) (row : target i = w) (effect : CommandEffect s w t) :
      ActionEffect s (.regWrite 0x00 (encode i)) t

theorem hostAct_effect {act : HostAction} {s t : State} (h : hostAct act s = .next t) : ActionEffect s act t := by
  obtain ⟨_, rfl, rfl⟩ | ⟨_, rfl, rfl⟩ | ⟨x, b, rfl, ⟨hx, rfl⟩ | ⟨-, rfl⟩⟩ | ⟨rfl, rfl⟩ | ⟨_, _, rfl, hw⟩ |
    ⟨v, rfl, ⟨-, rfl⟩ | ⟨i, hd, hi⟩⟩ := hostAct_cases h
  · exact .quiet _ _ _ _ _ _
  · exact .quiet _ _ _ _ _ _
  · exact .store x b hx
  · exact .quiet _ _ _ _ _ _
  · exact .reset
  · obtain ⟨-, rfl⟩ | ⟨-, rfl⟩ | ⟨-, rfl⟩ | ⟨-, rfl⟩ | ⟨-, rfl⟩ := hw <;> exact .quiet _ _ _ _ _ _
  · exact .illegal v
  · rw [eq_encode_of_decode hd]
    exact .command i rfl (exec_effect hi)

/-- Everything that one step with an action to come can do, from the state with that action taken off the list. -/
theorem step_effect {s t : State} {act : HostAction} {rest : List HostAction} (hs : s.host = act :: rest)
    (h : step s = .next t) : ActionEffect (s.issue rest) act t :=
  hostAct_effect ((step_cons hs).symm.trans h)

theorem encode_of_target_typeCode {i : Instr} (h : target i = .typeCode) :
    HostAction.regWrite 0x00 (encode i) = .regWrite 0x00 0x00000001 ∨
      HostAction.regWrite 0x00 (encode i) = .regWrite 0x00 0x00000002 := by
  cases i <;> cases h <;> decide

theorem encode_of_target_chunk {i : Instr} (h : target i = .chunk) :
    HostAction.regWrite 0x00 (encode i) = .regWrite 0x00 0x00000003 ∨
      HostAction.regWrite 0x00 (encode i) = .regWrite 0x00 0x00000005 := by
  cases i <;> cases h <;> decide

theorem encode_of_target_record {i : Instr} (h : target i = .record) : encode i = 0x00000004 := by
  cases i <;> cases h
  rfl

/-- R42: over any action, the type code is reset, stays, or is loaded. -/
theorem ActionEffect.typeCode {s t : State} {act : HostAction} (h : ActionEffect s act t) :
    act = .reset ∨ (t.typeReg = s.typeReg ∧ t.tcValid = s.tcValid) ∨
      ((act = .regWrite 0x00 0x00000001 ∨ act = .regWrite 0x00 0x00000002) ∧ t.err = 0 ∧ t.tcValid = true) := by
  cases h with
  | reset => exact .inl rfl
  | quiet | store | illegal => exact .inr (.inl (by simp))
  | command i row effect =>
    cases effect with
    | load => exact .inr (.inr ⟨encode_of_target_typeCode row, rfl, rfl⟩)
    | error | succeed | feed | bind | encode => exact .inr (.inl (by simp))

theorem memWrite_chValid_iff (s : State) (a : Nat) (bs : List Byte) :
    (s.memWrite a bs).chValid = true ↔
      s.chValid = true ∧ overlaps a bs.length s.chAddr.toNat s.chLen.toNat = false := by
  simp

/-- R67: a write that clears CH_VALID shares an address with the payload. -/
theorem shared_of_memWrite_clears {s : State} {a : Nat} {bs : List Byte} (hs : s.chValid = true)
    (ht : (s.memWrite a bs).chValid = false) :
    ∃ x, (a ≤ x ∧ x < a + bs.length) ∧ s.chAddr.toNat ≤ x ∧ x < s.chAddr.toNat + s.chLen.toNat := by
  rw [← overlaps_iff_shared]
  simpa [hs] using ht

/-- R66: a write that shares no address with a range leaves its bytes. -/
theorem bytesFrom_memWrite_of_not_overlaps {s : State} {a c n : Nat} {bs : List Byte}
    (h : overlaps a bs.length c n = false) : bytesFrom (s.memWrite a bs) c n = bytesFrom s c n := by
  refine bytesFrom_congr fun x hcx hxn => ?_
  rw [State.byteAt_memWrite, dif_neg]
  intro hx
  have hshared := (overlaps_iff_shared a bs.length c n).mpr ⟨x, hx, hcx, hxn⟩
  exact absurd (h.symm.trans hshared) Bool.false_ne_true

/-- The same chunk: its registers and its payload's bytes (R47). -/
structure SameChunk (s t : State) : Prop where
  chType : t.chType = s.chType
  chAddr : t.chAddr = s.chAddr
  chLen : t.chLen = s.chLen
  chCrc : t.chCrc = s.chCrc
  payload : bytesFrom t t.chAddr.toNat t.chLen.toNat = bytesFrom s s.chAddr.toNat s.chLen.toNat

/-- R67: a chunk that a write leaves valid was valid, and is the same. -/
theorem memWrite_keeps_chunk {s : State} {a : Nat} {bs : List Byte} (h : (s.memWrite a bs).chValid = true) :
    s.chValid = true ∧ SameChunk s (s.memWrite a bs) := by
  obtain ⟨hs, hdisjoint⟩ := (memWrite_chValid_iff s a bs).mp h
  exact ⟨hs, rfl, rfl, rfl, rfl, bytesFrom_memWrite_of_not_overlaps hdisjoint⟩

/-- OUT_LEN, ERR and ERR_IDX are no part of the chunk. -/
theorem SameChunk.recorded {s t : State} {n : Word} (h : SameChunk s t) : SameChunk s (t.setOutLen n).succeed :=
  ⟨h.chType, h.chAddr, h.chLen, h.chCrc, h.payload⟩

/-- R43, R47: a chunk that is valid after an action was so before and is the same, or the action made it. -/
theorem ActionEffect.chunk {s t : State} {act : HostAction} (h : ActionEffect s act t) (hv : t.chValid = true) :
    (s.chValid = true ∧ SameChunk s t) ∨
      ((act = .regWrite 0x00 0x00000003 ∨ act = .regWrite 0x00 0x00000005) ∧ t.err = 0) := by
  cases h with
  | reset => cases hv
  | quiet | illegal => exact .inl ⟨hv, rfl, rfl, rfl, rfl, rfl⟩
  | store x b inside => exact .inl (memWrite_keeps_chunk hv)
  | command i row effect =>
    cases effect with
    | error | succeed | load | feed => exact .inl ⟨hv, rfl, rfl, rfl, rfl, rfl⟩
    | bind => exact .inr ⟨encode_of_target_chunk row, rfl⟩
    | encode valid fits =>
      rw [State.succeed_chValid, State.setOutLen_chValid] at hv
      exact .inl ((memWrite_keeps_chunk hv).imp_right SameChunk.recorded)

/-- R43, R67: the three events that take a chunk's validity away. -/
theorem ActionEffect.chunk_lost {s t : State} {act : HostAction} (h : ActionEffect s act t) (hs : s.chValid = true)
    (ht : t.chValid = false) :
    act = .reset ∨
      (∃ a b, act = .bufWrite a b ∧ s.chAddr.toNat ≤ a ∧ a < s.chAddr.toNat + s.chLen.toNat) ∨
      (act = .regWrite 0x00 0x00000004 ∧ t.err = 0 ∧
        ∃ x, (s.dst.toNat ≤ x ∧ x < s.dst.toNat + (12 + s.chLen.toNat)) ∧
          s.chAddr.toNat ≤ x ∧ x < s.chAddr.toNat + s.chLen.toNat) := by
  cases h with
  | reset => exact .inl rfl
  | quiet | illegal => exact absurd (hs.symm.trans ht) (by decide)
  | store a b inside =>
    obtain ⟨x, ⟨hax, hxa⟩, hpayload⟩ := shared_of_memWrite_clears hs ht
    obtain rfl : x = a := Nat.le_antisymm (Nat.le_of_lt_succ hxa) hax
    exact .inr (.inl ⟨x, b, rfl, hpayload⟩)
  | command i row effect =>
    cases effect with
    | error | succeed | load | feed => exact absurd (hs.symm.trans ht) (by decide)
    | bind => cases ht
    | encode valid fits =>
      rw [State.succeed_chValid, State.setOutLen_chValid] at ht
      have hshared := shared_of_memWrite_clears hs ht
      rw [State.encoded_length] at hshared
      exact .inr (.inr ⟨by rw [encode_of_target_record row], rfl, hshared⟩)

end Sys2Proof.Machine

open Sys2Proof Sys2Proof.Machine

/-- Settles O50: the chunk's fate over the one action, where taking the action off the list changes no chunk. -/
theorem validChunkNeverChanges : Obligations.ValidChunkNeverChanges := by
  intro s t act rest hs h hv
  refine (step_effect hs h).chunk hv |>.imp_left fun ⟨hsv, hsame⟩ => ?_
  exact ⟨hsv, hsame.chType, hsame.chAddr, hsame.chLen, hsame.chCrc, hsame.payload⟩

/-- Settles O47: an action that is no command and no Reset leaves STATUS's error. -/
theorem onlyCommandsChangeTheError : Obligations.OnlyCommandsChangeTheError := by
  intro s t act rest hs h hreset hcmd
  cases step_effect hs h with
  | quiet | store => exact ⟨rfl, rfl⟩
  | reset => exact absurd rfl hreset
  | illegal v => exact absurd rfl (hcmd v)
  | command i => exact absurd rfl (hcmd _)

/-- Settles O48: over an action that is no Reset the type code stays or is loaded. -/
theorem typeCodeStaysUntilLoadedOrReset : Obligations.TypeCodeStaysUntilLoadedOrReset := by
  intro s t act rest hs h
  obtain hreset | ⟨htype, hvalid⟩ | ⟨hact, herr, hvalid⟩ := (step_effect hs h).typeCode
  · exact ⟨absurd hreset, absurd hreset⟩
  · exact ⟨fun _ hs => hvalid.trans hs, fun _ hchange => hchange.elim (absurd htype) (absurd hvalid)⟩
  · exact ⟨fun _ _ => hvalid, fun _ _ => ⟨hact, herr, hvalid⟩⟩

/-- Settles O49: a chunk that was not valid before was made, and a loss is one of the three events. -/
theorem chunkValidityChangesOnlyAsStated : Obligations.ChunkValidityChangesOnlyAsStated := by
  intro s t act rest hs h
  refine ⟨fun hinvalid hv => ?_, (step_effect hs h).chunk_lost⟩
  obtain ⟨hvalid, -⟩ | hmade := (step_effect hs h).chunk hv
  · exact absurd (hinvalid.symm.trans hvalid) Bool.false_ne_true
  · exact hmade

end

section
/-! PROOFS. The invariants of R48 at reset and over each named update of the state, and so over every action. -/

namespace Sys2Proof.Machine

open Sys2Proof.Safety

theorem ErrorKind.code_produced (e : ErrorKind) : e.code ∈ producedCodes := by
  cases e <;> decide

theorem ErrorKind.ne_badTypeByte {e : ErrorKind} (h : e.code ≠ 1) : e ≠ .badTypeByte := by
  rintro rfl
  exact h rfl

end Sys2Proof.Machine

namespace Sys2Proof.Safety

open Sys2Proof.Machine

theorem inv_atReset {n : Nat} (draw : Nat) (h : Config.legalBufSize n) : Inv (State.atReset n draw) where
  typeLetters := nofun
  chunkLetters := nofun
  chunkInBounds := nofun
  chunkChecksum := nofun
  errProduced := (by decide : (0 : BitVec 4) ∈ producedCodes)
  errIndex _ := rfl
  sizeLegal := h
  bufCanonical := rfl
  bufInside _ _ := rfl

section
variable {s : State} (h : Inv s)
include h

/-- The invariants speak of no operand register, of neither OUT_LEN nor CRC_STATE, and not of the host's side. -/
theorem Inv.of_unread {src slen dst typeIn outLen crcState : Word} {host : List HostAction} {answer : HostAnswer} :
    Inv { s with
      src := src, slen := slen, dst := dst, typeIn := typeIn, outLen := outLen, crcState := crcState, host := host,
      answer := answer } :=
  { h with }

theorem Inv.withErr {err : BitVec 4} {errIdx : BitVec 2} (hp : err ∈ producedCodes) (hi : err ≠ 1 → errIdx = 0) :
    Inv { s with err := err, errIdx := errIdx } :=
  { h with errProduced := hp, errIndex := hi }

theorem Inv.succeed : Inv s.succeed := h.withErr (by decide) fun _ => rfl

theorem Inv.raiseAt {e : ErrorKind} {k : BitVec 2} (hk : e ≠ .badTypeByte → k = 0) : Inv (s.raiseAt e k) :=
  h.withErr e.code_produced fun hcode => hk (ErrorKind.ne_badTypeByte hcode)

theorem Inv.loadType {ty : Word} (hty : LettersOnly ty) : Inv (s.loadType ty) :=
  { h with typeLetters := fun _ => hty }

theorem Inv.bindChunk {ty a n c : Word} (hc : SoundChunk s ty a n c) : Inv (s.bindChunk ty a n c) :=
  { h with
    chunkLetters := fun _ => hc.letters
    chunkInBounds := fun _ => hc.inBounds
    chunkChecksum := fun _ => hc.checksum }

/-- R66, R67: a write inside BUF keeps the invariants, since a chunk that it leaves valid is as before. -/
theorem Inv.memWrite {a : Nat} {bs : List Byte} (hb : a + bs.length ≤ s.bufSize) : Inv (s.memWrite a bs) :=
  { h with
    chunkLetters := fun hv => h.chunkLetters (memWrite_keeps_chunk hv).1
    chunkInBounds := fun hv => h.chunkInBounds (memWrite_keeps_chunk hv).1
    chunkChecksum := fun hv => by
      obtain ⟨hs, hsame⟩ := memWrite_keeps_chunk hv
      rw [hsame.payload]
      exact h.chunkChecksum hs
    bufCanonical := Memory.wf_writeAll a bs h.bufCanonical
    bufInside := fun x hx => by
      have hx : s.bufSize ≤ x := hx
      have hout : ¬ (a ≤ x ∧ x < a + bs.length) := by omega
      rw [State.memWrite_buf, Memory.find_writeAll, dif_neg hout]
      exact h.bufInside x hx }

theorem Inv.resetCore : Inv s.resetCore := (inv_atReset (s.draw + 1) h.sizeLegal).of_unread

theorem Inv.of_commandEffect {w : Target} {t : State} (effect : CommandEffect s w t) : Inv t := by
  cases effect with
  | error e k index => exact h.raiseAt index
  | succeed => exact h.succeed
  | load ty letters => exact (h.loadType letters).succeed
  | feed r => exact h.of_unread.succeed
  | bind ty a n c sound => exact (h.bindChunk (sound h)).succeed
  | encode valid fits => exact (h.memWrite fits).of_unread.succeed

theorem Inv.of_actionEffect {act : HostAction} {t : State} (effect : ActionEffect s act t) : Inv t := by
  cases effect with
  | quiet => exact h.of_unread
  | store x b inside => exact h.memWrite inside
  | reset => exact h.resetCore
  | illegal v => exact h.raiseAt fun _ => rfl
  | command i row effect => exact h.of_commandEffect effect

end

end Sys2Proof.Safety

open Sys2Proof Sys2Proof.Machine Sys2Proof.Safety

/-- Settles O43: no valid bit is set, ERR is 0 and nothing is written. -/
theorem invariantsHoldAtReset : Obligations.InvariantsHoldAtReset :=
  ⟨inv_atReset 0 Config.bufSize_legal, fun _ draw hn => inv_atReset draw hn⟩

/-- Settles O44: with no action to come the state stays; else every action is made of updates that keep the invariants. -/
theorem invariantsHoldAfterEveryAction : Obligations.InvariantsHoldAfterEveryAction := by
  intro s t hinv h
  cases hs : s.host with
  | nil =>
    rw [step, hs] at h
    cases h
    exact hinv
  | cons act rest => exact hinv.of_unread.of_actionEffect (step_effect hs h)

end

section
/-! PROOFS. BUF under the host's actions: what BufRead, BufWrite and Reset make of its bytes, and which actions write a
byte at all (R61 to R67, R70, R78). -/

namespace Sys2Proof.Machine

/-- Writing a byte that was just written changes nothing, whatever the form of the list. -/
theorem Memory.write_write (a : Nat) (b : Byte) (m : Memory) :
    Memory.write a b (Memory.write a b m) = Memory.write a b m := by
  induction m with
  | nil => simp [Memory.write]
  | cons cell m ih =>
    obtain ⟨x, c⟩ := cell
    obtain hlt | rfl | hgt := Nat.lt_trichotomy a x
    · simp [Memory.write, hlt]
    · simp [Memory.write]
    · have hne : a ≠ x := by omega
      have hnlt : ¬ a < x := by omega
      simp [Memory.write, hnlt, hne, ih]

/-- R66, R67: a MemWrite reaches BUF and CH_VALID only. -/
theorem State.memWrite_eq (s : State) (a : Nat) (bs : List Byte) :
    s.memWrite a bs = { s with
      buf := Memory.writeAll a bs s.buf, chValid := s.chValid && !overlaps a bs.length s.chAddr.toNat s.chLen.toNat } :=
  rfl

/-- R70: both halves of a one-byte MemWrite, the store and the payload invalidation, are idempotent. -/
theorem State.memWrite_memWrite (s : State) (a : Nat) (b : Byte) :
    (s.memWrite a [b]).memWrite a [b] = s.memWrite a [b] := by
  simp [State.memWrite_eq, Memory.writeAll, Memory.write_write]

theorem State.byteAt_memWrite_outside {s : State} {a x : Nat} {bs : List Byte} (h : ¬ (a ≤ x ∧ x < a + bs.length)) :
    (s.memWrite a bs).byteAt x = s.byteAt x := by
  rw [State.byteAt_memWrite, dif_neg h]

/-- R66 on one byte. -/
theorem State.byteAt_memWrite_singleton (s : State) (a : Nat) (b : Byte) (x : Nat) :
    (s.memWrite a [b]).byteAt x = if x = a then b else s.byteAt x := by
  by_cases h : x = a
  · simp [State.byteAt_memWrite, h]
  · have hout : ¬ (a ≤ x ∧ x < a + [b].length) := by rw [List.length_singleton]; omega
    rw [State.byteAt_memWrite_outside hout, if_neg h]

/-- R67 on one byte: it meets the payload iff it lies in it. -/
theorem overlaps_singleton_iff (a c m : Nat) : overlaps a 1 c m = true ↔ c ≤ a ∧ a < c + m := by
  rw [overlaps_iff]
  omega

theorem memWrite_singleton_chValid_iff (s : State) (a : Nat) (b : Byte) :
    (s.memWrite a [b]).chValid = true ↔
      s.chValid = true ∧ ¬ (s.chAddr.toNat ≤ a ∧ a < s.chAddr.toNat + s.chLen.toNat) := by
  rw [memWrite_chValid_iff, ← overlaps_singleton_iff, Bool.not_eq_true, List.length_singleton]

theorem State.bufValue_inside {s : State} {a : Nat} (h : a < s.bufSize) : s.bufValue a = s.byteAt a := if_pos h

theorem State.bufValue_outside {s : State} {a : Nat} (h : s.bufSize ≤ a) : s.bufValue a = 0 := if_neg (Nat.not_lt.mpr h)

theorem bufWrite_inside {s : State} {a : Nat} (b : Byte) (h : a < s.bufSize) :
    bufWrite a b s = .next (s.memWrite a [b]) := if_pos h

theorem bufWrite_outside {s : State} {a : Nat} (b : Byte) (h : s.bufSize ≤ a) : bufWrite a b s = .next s :=
  if_neg (Nat.not_lt.mpr h)

/-- R9: BUF_SIZE is a parameter, not a register. -/
theorem ActionEffect.bufSize {s t : State} {act : HostAction} (h : ActionEffect s act t) : t.bufSize = s.bufSize := by
  cases h with
  | quiet | store | reset | illegal => rfl
  | command i row effect => cases effect <;> rfl

/-- R64, R78: the events that can give a byte of BUF another value; over any other action it stays. -/
theorem ActionEffect.byteAt {s t : State} {act : HostAction} (h : ActionEffect s act t) (a : Nat) :
    act = .reset ∨ (∃ b, act = .bufWrite a b) ∨
      (act = .regWrite 0x00 0x00000004 ∧ s.dst.toNat ≤ a ∧ a < s.dst.toNat + (12 + s.chLen.toNat)) ∨
      t.byteAt a = s.byteAt a := by
  cases h with
  | reset => exact .inl rfl
  | quiet | illegal => exact .inr (.inr (.inr rfl))
  | store x b inside =>
    by_cases hx : a = x
    · exact .inr (.inl ⟨b, by rw [hx]⟩)
    · exact .inr (.inr (.inr (by rw [State.byteAt_memWrite_singleton, if_neg hx])))
  | command i row effect =>
    cases effect with
    | error | succeed | load | feed | bind => exact .inr (.inr (.inr rfl))
    | encode valid fits =>
      by_cases hin : s.dst.toNat ≤ a ∧ a < s.dst.toNat + (12 + s.chLen.toNat)
      · exact .inr (.inr (.inl ⟨by rw [encode_of_target_record row], hin⟩))
      · rw [← State.encoded_length] at hin
        exact .inr (.inr (.inr (State.byteAt_memWrite_outside hin)))

end Sys2Proof.Machine

open Sys2Proof Sys2Proof.Machine

/-- Settles O8: the answer is `bufValue`, whose test is R61's. -/
theorem bufferReadReturnsTheByte : Obligations.BufferReadReturnsTheByte := by
  intro s rest a hs
  have hstep : step s = .next { s with host := rest, answer := .byte (s.bufValue a) } := step_cons hs
  exact ⟨fun h => by rw [hstep, State.bufValue_inside h], fun h => by rw [hstep, State.bufValue_outside h]⟩

/-- Settles O9: inside BUF the action is MemWrite of one byte, outside it nothing. -/
theorem bufferWriteStoresOneByte : Obligations.BufferWriteStoresOneByte := by
  intro s rest a b hs
  have hstep : step s = bufWrite a b (s.issue rest) := step_cons hs
  refine ⟨fun h => hstep.trans (bufWrite_outside b h), fun h => ?_⟩
  have hbyte := (s.issue rest).byteAt_memWrite_singleton a b
  refine ⟨(s.issue rest).memWrite a [b], hstep.trans (bufWrite_inside b h), ?_, fun x hx => ?_,
    memWrite_singleton_chValid_iff (s.issue rest) a b, rfl⟩
  · rw [hbyte, if_pos rfl]
  · rw [hbyte, if_neg hx, State.byteAt_issue]

/-- Settles O10: MemWrite of one byte is idempotent, and it moves no bound. -/
theorem bufferWriteIsIdempotent : Obligations.BufferWriteIsIdempotent := by
  intro s t a b h
  have h : bufWrite a b s = .next t := h
  change bufWrite a b t = .next t
  obtain hin | hout := Nat.lt_or_ge a s.bufSize
  · cases (bufWrite_inside b hin).symm.trans h
    rw [bufWrite_inside (s := s.memWrite a [b]) b hin, State.memWrite_memWrite]
  · cases (bufWrite_outside b hout).symm.trans h
    exact h

/-- Settles O12: the reset state lists no written byte, so each reads as the next draw. -/
theorem resetDrawsEveryByteAnew : Obligations.ResetDrawsEveryByteAnew := fun s rest hs =>
  ⟨(s.issue rest).resetCore, step_cons hs, fun _ => rfl, rfl, rfl, rfl⟩

/-- Settles O46: each of the three events that can write the byte is excluded. -/
theorem byteKeepsItsValueUntilWritten : Obligations.ByteKeepsItsValueUntilWritten := by
  intro s t act rest a hs h
  have effect := step_effect hs h
  refine ⟨effect.bufSize, fun hreset hwrite hencode => ?_⟩
  obtain hact | ⟨b, hact⟩ | hact | hbyte := effect.byteAt a
  · exact absurd hact hreset
  · exact absurd hact (hwrite b)
  · exact absurd hact hencode
  · exact hbyte

end

section
/-! PROOFS. What of BUF a command reads (R64, R78): with other bytes outside its range it takes the same path. -/

namespace Sys2Proof.Machine

/-- The state with other bytes in BUF: other written ones, and another draw of the rest. -/
def State.withBytes (s : State) (m : Memory) (draw : Nat) : State := { s with buf := m, draw := draw }

/-- The result with other bytes in the BUF of its state. -/
def resultWithBytes (m : Memory) (draw : Nat) : Result → Result
  | .next t => .next (t.withBytes m draw)
  | .fault r => .fault r
  | .refused r => .refused r

/-- Two states hold the same bytes in the range [a, a + n). -/
def SameBytes (s t : State) (a n : Nat) : Prop := ∀ x, a ≤ x → x < a + n → t.byteAt x = s.byteAt x

/-- MemRead of a range within one on which the states agree. -/
theorem SameBytes.memRead {s t : State} {a n c k : Nat} (h : SameBytes s t a n) (hlow : a ≤ c) (hhigh : c + k ≤ a + n) :
    t.memRead c k = s.memRead c k := by
  rw [State.memRead_eq_bytesFrom, State.memRead_eq_bytesFrom]
  exact bytesFrom_congr fun x hx hxk => h x (by omega) (by omega)

section
variable {s : State} {m : Memory} {draw : Nat}

theorem withBytes_srcAddr : (s.withBytes m draw).srcAddr = s.srcAddr := rfl

theorem execNop_withBytes : execNop (s.withBytes m draw) = resultWithBytes m draw (execNop s) := rfl

theorem execCrcInit_withBytes : execCrcInit (s.withBytes m draw) = resultWithBytes m draw (execCrcInit s) := rfl

theorem execTcLoad_withBytes : execTcLoad (s.withBytes m draw) = resultWithBytes m draw (execTcLoad s) := by
  have htype : (s.withBytes m draw).typeIn = s.typeIn := rfl
  rw [execTcLoad, execTcLoad, htype]
  cases validate (bytesOf s.typeIn) <;> rfl

theorem execChunkText_withBytes (h : SameBytes s (s.withBytes m draw) s.payloadAddr s.payloadLen) :
    execChunkText (s.withBytes m draw) = resultWithBytes m draw (execChunkText s) := by
  have hpayload : (s.withBytes m draw).payload = s.payload := h.memRead le_rfl le_rfl
  rw [execChunkText, execChunkText, hpayload, apply_ite (resultWithBytes m draw), apply_ite (resultWithBytes m draw)]
  rfl

section
variable (h : SameBytes s (s.withBytes m draw) s.srcAddr s.srcLen)
include h

theorem source_withBytes : (s.withBytes m draw).source = s.source := h.memRead le_rfl le_rfl

theorem execCrcUpdate_withBytes : execCrcUpdate (s.withBytes m draw) = resultWithBytes m draw (execCrcUpdate s) := by
  rw [execCrcUpdate, execCrcUpdate, source_withBytes h, apply_ite (resultWithBytes m draw)]
  rfl

theorem execChunkNew_withBytes : execChunkNew (s.withBytes m draw) = resultWithBytes m draw (execChunkNew s) := by
  rw [execChunkNew, execChunkNew, source_withBytes h, apply_ite (resultWithBytes m draw),
    apply_ite (resultWithBytes m draw)]
  rfl

/-- R131: the string is read only after its length was found to be 4. -/
theorem execTcLoadStr_withBytes : execTcLoadStr (s.withBytes m draw) = resultWithBytes m draw (execTcLoadStr s) := by
  rw [execTcLoadStr, execTcLoadStr, apply_ite (resultWithBytes m draw), apply_ite (resultWithBytes m draw)]
  refine ite_congr rfl (fun _ => rfl) fun _ => ite_congr rfl (fun _ => rfl) fun hlen => ?_
  have hstring : (s.withBytes m draw).memRead s.srcAddr 4 = s.memRead s.srcAddr 4 := h.memRead le_rfl (by omega)
  rw [withBytes_srcAddr, hstring]
  dsimp only
  cases validate (s.memRead s.srcAddr 4) <;> rfl

/-- R150: each field is read after the checks that put it inside the span. -/
theorem execChunkDecode_withBytes :
    execChunkDecode (s.withBytes m draw) = resultWithBytes m draw (execChunkDecode s) := by
  rw [execChunkDecode, execChunkDecode, apply_ite (resultWithBytes m draw), apply_ite (resultWithBytes m draw)]
  refine ite_congr rfl (fun _ => rfl) fun _ => ite_congr rfl (fun _ => rfl) fun hmin => ?_
  have hmin : 12 ≤ s.srcLen := Nat.le_of_not_lt hmin
  have hlen : (s.withBytes m draw).memRead s.srcAddr 4 = s.memRead s.srcAddr 4 := h.memRead le_rfl (by omega)
  rw [withBytes_srcAddr, hlen]
  dsimp only
  rw [apply_ite (resultWithBytes m draw)]
  refine ite_congr rfl (fun _ => rfl) fun hspan => ?_
  have hspan : s.srcLen = 12 + s.declaredLen.toNat := of_not_not hspan
  have htype : (s.withBytes m draw).memRead (s.srcAddr + 4) 4 = s.spanType := h.memRead (by omega) (by omega)
  have hpayload : (s.withBytes m draw).memRead (s.srcAddr + 8) s.declaredLen.toNat = s.spanPayload :=
    h.memRead (by omega) (by omega)
  have hcrc : (s.withBytes m draw).memRead (s.srcAddr + 8 + s.declaredLen.toNat) 4 =
      s.memRead (s.srcAddr + 8 + s.declaredLen.toNat) 4 := h.memRead (by omega) (by omega)
  rw [htype, hpayload, hcrc]
  cases validate s.spanType with
  | some k => rfl
  | none =>
    dsimp only
    rw [apply_ite (resultWithBytes m draw)]
    rfl

end

/-- R78, the table's writes column: every command but CHUNK_ENCODE leaves BUF, so with other bytes outside the range
that it reads it ends in the same state but for those bytes. -/
theorem exec_withBytes {i : Instr} (hi : i ≠ .chunkEncode)
    (hsource : i = .tcLoadStr ∨ i = .crcUpdate ∨ i = .chunkNew ∨ i = .chunkDecode →
      SameBytes s (s.withBytes m draw) s.srcAddr s.srcLen)
    (hpayload : i = .chunkText → SameBytes s (s.withBytes m draw) s.payloadAddr s.payloadLen) :
    exec i (s.withBytes m draw) = resultWithBytes m draw (exec i s) := by
  cases i with
  | nop => exact execNop_withBytes
  | tcLoad => exact execTcLoad_withBytes
  | tcLoadStr => exact execTcLoadStr_withBytes (hsource (by decide))
  | chunkNew => exact execChunkNew_withBytes (hsource (by decide))
  | chunkEncode => exact absurd rfl hi
  | chunkDecode => exact execChunkDecode_withBytes (hsource (by decide))
  | chunkText => exact execChunkText_withBytes (hpayload rfl)
  | crcInit => exact execCrcInit_withBytes
  | crcUpdate => exact execCrcUpdate_withBytes (hsource (by decide))

theorem execChunkEncode_noChunk {s : State} (h : s.chValid = false) :
    execChunkEncode s = .next (s.raise .noChunk) := by
  simp [execChunkEncode, h]

theorem execChunkEncode_outOfBounds {s : State} (h : s.chValid = true)
    (hb : s.inBounds s.dstAddr s.recordLen = false) : execChunkEncode s = .next (s.raise .outOfBounds) := by
  simp [execChunkEncode, h, hb]

theorem encoded_withBytes (h : SameBytes s (s.withBytes m draw) s.payloadAddr s.payloadLen) :
    (s.withBytes m draw).encoded = s.encoded := by
  have hpayload : (s.withBytes m draw).payload = s.payload := h.memRead le_rfl le_rfl
  rw [State.encoded, hpayload]
  rfl

/-- R66: the written range holds the same bytes, whatever was there before. -/
theorem sameBytes_memWrite (s t : State) (a : Nat) (bs : List Byte) :
    SameBytes (s.memWrite a bs) (t.memWrite a bs) a bs.length := by
  intro x hlow hhigh
  rw [State.byteAt_memWrite, State.byteAt_memWrite, dif_pos ⟨hlow, hhigh⟩, dif_pos ⟨hlow, hhigh⟩]

/-- R145, R78: CHUNK_ENCODE reads the payload only, so with other bytes elsewhere it takes the same path and writes the
same record. -/
theorem execChunkEncode_withBytes {t t' : State}
    (h : SameBytes s (s.withBytes m draw) s.payloadAddr s.payloadLen) (ht : execChunkEncode s = .next t)
    (ht' : execChunkEncode (s.withBytes m draw) = .next t') :
    t' = t.withBytes t'.buf draw ∧ (t.err = 0 → SameBytes t t' s.dst.toNat (12 + s.chLen.toNat)) := by
  obtain ⟨hv, rfl⟩ | ⟨hv, hb, rfl⟩ | ⟨hv, hb, rfl⟩ := execChunkEncode_cases ht
  · cases (execChunkEncode_noChunk (s := s.withBytes m draw) hv).symm.trans ht'
    exact ⟨rfl, fun herr => absurd herr (ErrorKind.code_ne_zero .noChunk)⟩
  · cases (execChunkEncode_outOfBounds (s := s.withBytes m draw) hv hb).symm.trans ht'
    exact ⟨rfl, fun herr => absurd herr (ErrorKind.code_ne_zero .outOfBounds)⟩
  · have hfits := (inBounds_iff ..).mp hb
    cases (execChunkEncode_fits (s := s.withBytes m draw) hv hfits).symm.trans ht'
    rw [encoded_withBytes h, ← State.encoded_length]
    exact ⟨rfl, fun _ => sameBytes_memWrite s (s.withBytes m draw) s.dstAddr s.encoded⟩

end

end Sys2Proof.Machine

open Sys2Proof Sys2Proof.Machine

/-- Settles O51: a command that writes no BUF commutes with the change of the unread bytes; CHUNK_ENCODE takes the same
path in both states. -/
theorem commandsReadOnlyTheirRange : Obligations.CommandsReadOnlyTheirRange := by
  intro i s t t' m draw hsource hpayload ht ht'
  by_cases hi : i = .chunkEncode
  · subst hi
    obtain ⟨hstate, hrecord⟩ := execChunkEncode_withBytes (hpayload (by decide)) ht ht'
    exact ⟨hstate, fun _ => hrecord⟩
  · have hexec := exec_withBytes hi hsource fun htext => hpayload (.inr htext)
    rw [ht] at hexec
    obtain rfl : t' = t.withBytes m draw := by simpa [resultWithBytes] using ht'.symm.trans hexec
    exact ⟨rfl, fun h => absurd h hi⟩

end

section
/-! PROOFS. The command word's check and the round trip between words and commands (R81, R83 to R85). -/

namespace Sys2Proof

@[simp] theorem mbzField_encode (i : Instr) : mbzField (encode i) = 0 := by
  cases i <;> rfl

@[simp] theorem opField_encode (i : Instr) : opField (encode i) = opcode i := by
  cases i <;> rfl

theorem opcode_toNat_le (i : Instr) : (opcode i).toNat ≤ 0x08 := by
  cases i <;> decide

theorem ofOpcode_opcode (i : Instr) : ofOpcode (opcode i) = .ok i := by
  cases i <;> rfl

/-- R83: the map has a row for each OP up to 0x08. -/
theorem exists_ofOpcode_eq_ok {op : BitVec 8} (h : op.toNat ≤ 0x08) : ∃ i, ofOpcode op = .ok i := by
  unfold ofOpcode
  generalize op.toNat = n at h ⊢
  interval_cases n <;> exact ⟨_, rfl⟩

/-- R84: past the check of MBZ, the OP alone decides. -/
theorem decode_of_mbzField_eq_zero {v : Word} (h : mbzField v = 0) : decode v = ofOpcode (opField v) :=
  if_neg (not_not_intro h)

@[simp] theorem decode_encode (i : Instr) : decode (encode i) = .ok i := by
  rw [decode_of_mbzField_eq_zero (mbzField_encode i), opField_encode, ofOpcode_opcode]

/-- R84: the legal words are those that decode. -/
theorem exists_decode_eq_ok_iff (v : Word) :
    (∃ i, decode v = .ok i) ↔ mbzField v = 0 ∧ (opField v).toNat ≤ 0x08 := by
  constructor
  · rintro ⟨i, hd⟩
    rw [eq_encode_of_decode hd, opField_encode]
    exact ⟨mbzField_encode i, opcode_toNat_le i⟩
  · rintro ⟨hmbz, hop⟩
    rw [decode_of_mbzField_eq_zero hmbz]
    exact exists_ofOpcode_eq_ok hop

/-- The command's opcode is bits [7:0] of its word (R81). -/
theorem opcode_eq_opField_of_decode {v : Word} {i : Instr} (h : decode v = .ok i) : opcode i = opField v := by
  rw [eq_encode_of_decode h, opField_encode]

end Sys2Proof

open Sys2Proof Sys2Proof.Machine

/-- Settles O2: the check accepts exactly the words that decode; an illegal one only raises, and a legal one is its
command's `exec`, as in O4. -/
theorem commandWordIsCheckedThenRun : Obligations.CommandWordIsCheckedThenRun := by
  intro v
  have hlegal := exists_decode_eq_ok_iff v
  refine ⟨hlegal, fun s rest hs => ⟨fun hillegal => ?_, fun i hd => ?_⟩⟩
  · have hd : ∀ i, decode v ≠ .ok i := not_exists.mp (mt hlegal.mp hillegal)
    exact (step_cons hs).trans (runCommandWord_illegal hd _)
  · exact ⟨opcode_eq_opField_of_decode hd, stepRunsTheCommandWritten s rest v i hs hd⟩

/-- Settles O3: the decoder inverts the encoder, and drops no bit of the word. -/
theorem commandWordRoundTrip : Obligations.CommandWordRoundTrip :=
  ⟨decode_encode, fun _ _ => eq_encode_of_decode⟩

/-- Settles O1: each of the nine words is the encoding of its command, so O3's round trip decodes it. -/
theorem opcodeMapWordsDecode : Obligations.OpcodeMapWordsDecode :=
  ⟨decode_encode .nop, decode_encode .tcLoad, decode_encode .tcLoadStr, decode_encode .chunkNew,
    decode_encode .chunkEncode, decode_encode .chunkDecode, decode_encode .chunkText, decode_encode .crcInit,
    decode_encode .crcUpdate⟩

end

section
/-! PROOFS. The CRC byte step as a linear and injective map (R101, R103, R107), and the checksum's fixed values
(R100, R102). -/

namespace Sys2Proof.Machine

open Sys2Proof.Safety

/-- What a round XORs into the shifted register: the polynomial, or nothing (R101). -/
def crcFeedback (bit : Bool) : Word := if bit then crcPolynomial else 0

theorem crcRound_eq_xor (r : Word) : crcRound r = (r >>> 1) ^^^ crcFeedback (r.getLsbD 0) := by
  unfold crcRound
  cases r.getLsbD 0
  · exact BitVec.xor_zero.symm
  · rfl

theorem crcFeedback_xor (b c : Bool) : crcFeedback (b ^^ c) = crcFeedback b ^^^ crcFeedback c := by
  cases b <;> cases c <;> decide

/-- R103: a round is linear over GF(2). -/
theorem crcRound_xor (r q : Word) : crcRound (r ^^^ q) = crcRound r ^^^ crcRound q := by
  rw [crcRound_eq_xor, crcRound_eq_xor, crcRound_eq_xor, BitVec.getLsbD_xor, BitVec.ushiftRight_xor_distrib,
    crcFeedback_xor]
  ac_rfl

theorem crcRounds_xor (n : Nat) (r q : Word) : crcRounds n (r ^^^ q) = crcRounds n r ^^^ crcRounds n q := by
  induction n generalizing r q with
  | zero => rfl
  | succ n ih => rw [crcRounds, crcRound_xor, ih, crcRounds, crcRounds]

/-- While the low bits are clear, no round meets the polynomial: the register is only shifted. -/
theorem crcRounds_eq_ushiftRight {n : Nat} {r : Word} (h : ∀ i, i < n → r.getLsbD i = false) :
    crcRounds n r = r >>> n := by
  induction n generalizing r with
  | zero => exact (BitVec.ushiftRight_zero r).symm
  | succ n ih =>
    have hround : crcRound r = r >>> 1 := by
      rw [crcRound_eq_xor, h 0 (by omega)]
      exact BitVec.xor_zero
    have hlow : ∀ i, i < n → (r >>> 1).getLsbD i = false := fun i hi => by
      rw [BitVec.getLsbD_ushiftRight]
      exact h _ (by omega)
    rw [crcRounds, hround, ih hlow, ← BitVec.shiftRight_add, Nat.add_comm]

/-- A byte lies below bit 8, so the shift of R103 drops it. -/
theorem ushiftRight_xor_byte (r : Word) (b : Byte) : (r ^^^ b.zeroExtend 32) >>> 8 = r >>> 8 := by
  apply BitVec.eq_of_getLsbD_eq
  intro i hi
  simp

theorem xor_lowByte_getLsbD (x : Word) {i : Nat} (h : i < 8) :
    (x ^^^ (x.extractLsb' 0 8).zeroExtend 32).getLsbD i = false := by
  have hi : i < 32 := by omega
  simp [h, hi]

/-- `crc_step(0, i)` is eight rounds of the byte (R103). -/
theorem crcTable_eq (i : Byte) : crcTable i = crcRounds 8 (i.zeroExtend 32) :=
  congrArg (crcRounds 8) BitVec.zero_xor

/-- R103: the upper bits of the register are only shifted, and its low byte selects the table's row. -/
theorem crcRounds_eight (x : Word) : crcRounds 8 x = (x >>> 8) ^^^ crcTable (x.extractLsb' 0 8) := by
  have hsplit (low : Word) : x = (x ^^^ low) ^^^ low := by simp
  calc crcRounds 8 x
      = crcRounds 8 (x ^^^ (x.extractLsb' 0 8).zeroExtend 32) ^^^ crcTable (x.extractLsb' 0 8) := by
        rw [crcTable_eq, ← crcRounds_xor, ← hsplit]
    _ = (x >>> 8) ^^^ crcTable (x.extractLsb' 0 8) := by
        rw [crcRounds_eq_ushiftRight fun _ => xor_lowByte_getLsbD x, ushiftRight_xor_byte]

/-- R107: bit 31 of a round's result is bit 0 of its argument, since the shift clears it and the polynomial has it. -/
theorem crcRound_getLsbD_31 (r : Word) : (crcRound r).getLsbD 31 = r.getLsbD 0 := by
  have hshift : (r >>> 1).getLsbD 31 = false := by
    rw [BitVec.getLsbD_ushiftRight]
    exact BitVec.getLsbD_of_ge r 32 le_rfl
  have hfeedback : ∀ b : Bool, (crcFeedback b).getLsbD 31 = b := by decide
  rw [crcRound_eq_xor, BitVec.getLsbD_xor, hshift, hfeedback, Bool.false_xor]

/-- R107: no round loses a bit: bit 0 stands in bit 31, and with it the rest is the shifted register. -/
theorem crcRound_injective : Function.Injective crcRound := by
  intro r q h
  have hbit : r.getLsbD 0 = q.getLsbD 0 := by rw [← crcRound_getLsbD_31, ← crcRound_getLsbD_31, h]
  rw [crcRound_eq_xor, crcRound_eq_xor, hbit] at h
  have hshift : r >>> 1 = q >>> 1 := (BitVec.xor_left_inj _).mp h
  apply BitVec.eq_of_getLsbD_eq
  rintro (_ | i) hi
  · exact hbit
  · have hnext := congrArg (BitVec.getLsbD · i) hshift
    simpa [BitVec.getLsbD_ushiftRight, Nat.add_comm] using hnext

theorem crcRounds_injective (n : Nat) : Function.Injective (crcRounds n) := by
  induction n with
  | zero => exact fun _ _ h => h
  | succ n ih => exact ih.comp crcRound_injective

theorem crcStep_injective_register (b : Byte) : Function.Injective (crcStep · b) := fun _ _ h =>
  (BitVec.xor_left_inj _).mp (crcRounds_injective 8 h)

theorem zeroExtend_byte_injective : Function.Injective (BitVec.zeroExtend 32 : Byte → Word) := by
  intro b c h
  have hback : ∀ x : Byte, (x.zeroExtend 32).setWidth 8 = x := fun x => by simp
  rw [← hback b, h, hback]

theorem crcStep_injective_byte (r : Word) : Function.Injective (crcStep r) := fun _ _ h =>
  zeroExtend_byte_injective ((BitVec.xor_right_inj _).mp (crcRounds_injective 8 h))

theorem crcFold_injective (bs : List Byte) : Function.Injective (crcFold bs) := by
  induction bs with
  | nil => exact fun _ _ h => h
  | cons b bs ih => exact ih.comp (crcStep_injective_register b)

/-- R107: the two folds part at the changed byte, and no later step joins them again. -/
theorem crc32_ne_of_ne (xs ys : List Byte) {b c : Byte} (h : b ≠ c) : crc32 (xs ++ b :: ys) ≠ crc32 (xs ++ c :: ys) := by
  intro heq
  have hfold : crcFold (xs ++ b :: ys) crcInitial = crcFold (xs ++ c :: ys) crcInitial :=
    (BitVec.xor_left_inj crcFinalXor).mp heq
  rw [crcFold_append, crcFold_append] at hfold
  exact h (crcStep_injective_byte _ (crcFold_injective ys hfold))

end Sys2Proof.Machine

open Sys2Proof Sys2Proof.Machine

/-- Settles O19: `crc_step` is eight rounds of the register XOR the byte, and the shift drops the byte. -/
theorem tableDrivenCrcStepAgrees : Obligations.TableDrivenCrcStepAgrees := by
  refine ⟨fun r b => ?_, by decide, by decide, by decide, by decide, by decide⟩
  rw [crcStep, crcRounds_eight, ushiftRight_xor_byte]

/-- Settles O21: every step of the fold is injective in the register and in the byte. -/
theorem oneChangedByteChangesTheChecksum : Obligations.OneChangedByteChangesTheChecksum := fun xs ys _ _ =>
  crc32_ne_of_ne xs ys

/-- Settles O20: both sequences are closed, so the fold computes. -/
theorem crcCheckValue : Obligations.CrcCheckValue := by
  refine ⟨?_, ?_⟩
  · decide +kernel
  · decide

end

section
/-! PROOFS. The streaming generator: CRC_INIT and CRC_UPDATE, what no other action does to CRC_STATE, and the checksum
of a run (R104 to R106, R108). -/

namespace Sys2Proof.Machine

open Sys2Proof.Safety

theorem execCrcUpdate_inBounds {s : State} (h : s.src.toNat + s.slen.toNat ≤ s.bufSize) :
    execCrcUpdate s =
      .next (s.setCrcState (crcFold (bytesFrom s s.src.toNat s.slen.toNat) s.crcState)).succeed := by
  have hsource : s.source = bytesFrom s s.src.toNat s.slen.toNat := s.memRead_eq_bytesFrom ..
  simp [execCrcUpdate, (sourceInBounds_iff s).mpr h, hsource]

theorem execCrcUpdate_outOfBounds {s : State} (h : s.bufSize < s.src.toNat + s.slen.toNat) :
    execCrcUpdate s = .next (s.raise .outOfBounds) := by
  have hbound : ¬ s.sourceInBounds = true := mt (sourceInBounds_iff s).mp (Nat.not_le.mpr h)
  simp [execCrcUpdate, hbound]

theorem encode_of_target_stream {i : Instr} (h : target i = .stream) :
    HostAction.regWrite 0x00 (encode i) = .regWrite 0x00 0x00000007 ∨
      HostAction.regWrite 0x00 (encode i) = .regWrite 0x00 0x00000008 := by
  cases i <;> cases h <;> decide

/-- R108: a command of another row of R82's table keeps CRC_STATE. -/
theorem CommandEffect.crcState {s t : State} {w : Target} (h : CommandEffect s w t) (hw : w ≠ .stream) :
    t.crcState = s.crcState := by
  cases h with
  | feed => exact absurd rfl hw
  | error | succeed | load | bind | encode => rfl

/-- R40: the events that can change CRC_STATE; over any other action it stays. -/
theorem ActionEffect.crcState {s t : State} {act : HostAction} (h : ActionEffect s act t) :
    act = .reset ∨ (act = .regWrite 0x00 0x00000007 ∨ act = .regWrite 0x00 0x00000008) ∨ t.crcState = s.crcState := by
  cases h with
  | reset => exact .inl rfl
  | quiet | store | illegal => exact .inr (.inr rfl)
  | command i row effect =>
    by_cases hw : target i = .stream
    · exact .inr (.inl (encode_of_target_stream hw))
    · exact .inr (.inr (effect.crcState (row ▸ hw)))

/-- R7: no action changes what the host is still to do. -/
theorem ActionEffect.host {s t : State} {act : HostAction} (h : ActionEffect s act t) : t.host = s.host := by
  cases h with
  | quiet | store | reset | illegal => rfl
  | command i row effect => cases effect <;> rfl

/-- R106 for one action: CRC_STATE advances by the bytes that the action feeds. -/
theorem hostAct_folds_fedBy {s t : State} {act : HostAction} (h : hostAct act s = .next t)
    (hinit : act ≠ .regWrite 0x00 0x00000007) (hreset : act ≠ .reset) :
    t.crcState = crcFold (fedBy act s) s.crcState := by
  by_cases hact : act = .regWrite 0x00 0x00000008
  · subst hact
    have h : execCrcUpdate s = .next t := h
    obtain hout | hin := Nat.lt_or_ge s.bufSize (s.src.toNat + s.slen.toNat)
    · cases (execCrcUpdate_outOfBounds hout).symm.trans h
      rw [fedBy, if_neg fun hfed => Nat.not_le.mpr hout hfed.2]
      rfl
    · cases (execCrcUpdate_inBounds hin).symm.trans h
      rw [fedBy, if_pos ⟨rfl, hin⟩]
      rfl
  · rw [fedBy, if_neg fun hfed => hact hfed.1]
    obtain hr | (hi | hu) | hkept := (hostAct_effect h).crcState
    · exact absurd hr hreset
    · exact absurd hi hinit
    · exact absurd hu hact
    · exact hkept

theorem fed_idle (n : Nat) {s : State} (h : s.host = []) : fed n s = [] := by
  cases n with
  | zero => rfl
  | succ n => rw [fed, h]

theorem fed_cons (n : Nat) {s t : State} {act : HostAction} {rest : List HostAction} (hs : s.host = act :: rest)
    (h : step s = .next t) : fed (n + 1) s = fedBy act (s.issue rest) ++ fed n t := by
  have hafter : after s = t := by rw [after, h]
  rw [fed, hs, ← hafter]

/-- R193 along a run: with no action to come the state stays. -/
theorem core_run_idle (n : Nat) {s : State} (h : s.host = []) : core.run n s = .next s := by
  induction n with
  | zero => rfl
  | succ n ih =>
    have hstep : step s = .next s := by rw [step, h]
    rw [core_run_succ hstep, ih]

/-- R106 from any CRC_STATE: over a run without CRC_INIT and Reset it advances by all the bytes fed, in order. -/
theorem core_run_folds_fed (n : Nat) (s : State)
    (h : ∀ a ∈ s.host.take n, a ≠ .regWrite 0x00 0x00000007 ∧ a ≠ .reset) :
    ∃ t, core.run n s = .next t ∧ t.crcState = crcFold (fed n s) s.crcState := by
  induction n generalizing s with
  | zero => exact ⟨s, rfl, rfl⟩
  | succ n ih =>
    cases hs : s.host with
    | nil => exact ⟨s, core_run_idle _ hs, by rw [fed_idle _ hs]; rfl⟩
    | cons act rest =>
      obtain ⟨u, hu⟩ := step_total s
      have hact : hostAct act (s.issue rest) = .next u := (step_cons hs).symm.trans hu
      have hrest : u.host = rest := (hostAct_effect hact).host
      rw [hs, List.take_succ_cons, List.forall_mem_cons] at h
      obtain ⟨⟨hinit, hreset⟩, hlater⟩ := h
      obtain ⟨t, ht, hfold⟩ := ih u (by rwa [hrest])
      refine ⟨t, (core_run_succ hu).trans ht, ?_⟩
      rw [hfold, hostAct_folds_fedBy hact hinit hreset, fed_cons n hs hu, crcFold_append]
      rfl

/-- The result with another value in the CRC_STATE of its state. -/
def resultWithCrcState (r : Word) : Result → Result
  | .next t => .next (t.setCrcState r)
  | .fault e => .fault e
  | .refused e => .refused e

section
variable (s : State) (r : Word)

/-- R40: no read of BUF depends on CRC_STATE. -/
theorem State.memRead_setCrcState (a n : Nat) : (s.setCrcState r).memRead a n = s.memRead a n := by
  rw [State.memRead_eq_bytesFrom, State.memRead_eq_bytesFrom]
  rfl

theorem setCrcState_srcAddr : (s.setCrcState r).srcAddr = s.srcAddr := rfl

theorem source_setCrcState : (s.setCrcState r).source = s.source := s.memRead_setCrcState r ..

theorem payload_setCrcState : (s.setCrcState r).payload = s.payload := s.memRead_setCrcState r ..

theorem encoded_setCrcState : (s.setCrcState r).encoded = s.encoded := by
  rw [State.encoded, payload_setCrcState]
  rfl

theorem execTcLoad_setCrcState : execTcLoad (s.setCrcState r) = resultWithCrcState r (execTcLoad s) := by
  rw [execTcLoad, execTcLoad, State.setCrcState_typeIn]
  cases validate (bytesOf s.typeIn) <;> rfl

theorem execTcLoadStr_setCrcState : execTcLoadStr (s.setCrcState r) = resultWithCrcState r (execTcLoadStr s) := by
  rw [execTcLoadStr, execTcLoadStr, State.memRead_setCrcState, setCrcState_srcAddr,
    apply_ite (resultWithCrcState r), apply_ite (resultWithCrcState r)]
  dsimp only
  cases validate (s.memRead s.srcAddr 4) <;> rfl

theorem execChunkNew_setCrcState : execChunkNew (s.setCrcState r) = resultWithCrcState r (execChunkNew s) := by
  rw [execChunkNew, execChunkNew, source_setCrcState, apply_ite (resultWithCrcState r),
    apply_ite (resultWithCrcState r)]
  rfl

theorem execChunkEncode_setCrcState :
    execChunkEncode (s.setCrcState r) = resultWithCrcState r (execChunkEncode s) := by
  rw [execChunkEncode, execChunkEncode, encoded_setCrcState, apply_ite (resultWithCrcState r),
    apply_ite (resultWithCrcState r)]
  rfl

theorem execChunkDecode_setCrcState :
    execChunkDecode (s.setCrcState r) = resultWithCrcState r (execChunkDecode s) := by
  rw [execChunkDecode, execChunkDecode, setCrcState_srcAddr, apply_ite (resultWithCrcState r),
    apply_ite (resultWithCrcState r)]
  dsimp only
  rw [State.memRead_setCrcState, State.memRead_setCrcState, State.memRead_setCrcState, State.memRead_setCrcState,
    apply_ite (resultWithCrcState r)]
  cases validate s.spanType with
  | some k => rfl
  | none =>
    dsimp only
    rw [apply_ite (resultWithCrcState r)]
    rfl

theorem execChunkText_setCrcState : execChunkText (s.setCrcState r) = resultWithCrcState r (execChunkText s) := by
  rw [execChunkText, execChunkText, payload_setCrcState, apply_ite (resultWithCrcState r),
    apply_ite (resultWithCrcState r)]
  rfl

/-- R108: a command other than CRC_INIT and CRC_UPDATE takes the same path with another CRC_STATE, and keeps it. -/
theorem exec_setCrcState {i : Instr} (hi : target i ≠ .stream) :
    exec i (s.setCrcState r) = resultWithCrcState r (exec i s) := by
  cases i with
  | nop => rfl
  | tcLoad => exact execTcLoad_setCrcState s r
  | tcLoadStr => exact execTcLoadStr_setCrcState s r
  | chunkNew => exact execChunkNew_setCrcState s r
  | chunkEncode => exact execChunkEncode_setCrcState s r
  | chunkDecode => exact execChunkDecode_setCrcState s r
  | chunkText => exact execChunkText_setCrcState s r
  | crcInit | crcUpdate => exact absurd rfl hi

end

theorem target_ne_stream {i : Instr} (hinit : i ≠ .crcInit) (hupdate : i ≠ .crcUpdate) : target i ≠ .stream := by
  cases i with
  | crcInit => exact absurd rfl hinit
  | crcUpdate => exact absurd rfl hupdate
  | nop | tcLoad | tcLoadStr | chunkNew | chunkEncode | chunkDecode | chunkText => nofun

end Sys2Proof.Machine

open Sys2Proof Sys2Proof.Machine

/-- Settles O22: CRC_INIT has one path, and leaves the CRC_VALUE of the empty sequence (O20). -/
theorem crcInitResult : Obligations.CrcInitResult := by
  refine ⟨decode_encode .crcInit, fun s => ⟨rfl, fun t ht => ?_⟩⟩
  cases execCrcInit_cases ht
  exact ⟨crcCheckValue.2, rfl, rfl, rfl⟩

/-- Settles O23: the bounds check decides between the fold and the error. -/
theorem crcUpdateResult : Obligations.CrcUpdateResult :=
  ⟨decode_encode .crcUpdate, fun _ => ⟨execCrcUpdate_inBounds, execCrcUpdate_outOfBounds⟩⟩

/-- Settles O24: the fold over the run begins at CRC_STATE's initial value, as `crc32` does. -/
theorem streamingChecksumOfAllBytesFed : Obligations.StreamingChecksumOfAllBytesFed := by
  intro n s hs hquiet
  obtain ⟨t, ht, hfold⟩ := core_run_folds_fed n s hquiet
  rw [hs] at hfold
  exact ⟨t, ht, congrArg (· ^^^ crcFinalXor) hfold⟩

/-- Settles O52: the command's row of R82's table keeps CRC_STATE, and its path does not read it. -/
theorem streamSurvivesOtherCommands : Obligations.StreamSurvivesOtherCommands := by
  intro i s t r hinit hupdate h
  have hi := target_ne_stream hinit hupdate
  refine ⟨(exec_effect h).crcState hi, (exec_setCrcState s r hi).trans ?_⟩
  rw [h]
  rfl

end

section
/-! PROOFS. CHUNK_DECODE on a record with one byte changed (R107, R150). -/

namespace Sys2Proof.Machine

theorem State.byteAt_storeByte (s : State) (x : Nat) (b : Byte) (y : Nat) :
    (s.storeBytes x [b]).byteAt y = if y = x then b else s.byteAt y :=
  s.byteAt_memWrite_singleton x b y

/-- One stored byte leaves every MemRead of a range without it. -/
theorem memRead_storeByte_outside {s : State} {x a n : Nat} (b : Byte) (h : x < a ∨ a + n ≤ x) :
    (s.storeBytes x [b]).memRead a n = s.memRead a n := by
  have hsame : SameBytes s (s.storeBytes x [b]) a n := fun y hlow hhigh => by
    rw [State.byteAt_storeByte, if_neg (by omega)]
  exact hsame.memRead le_rfl le_rfl

/-- A MemRead of a range splits at each of its addresses. -/
theorem memRead_eq_append_cons (s : State) {x a n : Nat} (hlow : a ≤ x) (hhigh : x < a + n) :
    s.memRead a n = s.memRead a (x - a) ++ s.byteAt x :: s.memRead (x + 1) (a + n - (x + 1)) := by
  have hn : n = (x - a) + (1 + (a + n - (x + 1))) := by omega
  have hx : a + (x - a) = x := by omega
  conv_lhs => rw [hn, State.memRead_eq_bytesFrom, bytesFrom_append, hx, bytesFrom_append]
  rw [State.memRead_eq_bytesFrom, State.memRead_eq_bytesFrom]
  rfl

/-- R107 on BUF: another byte stored within a range changes the range's checksum. -/
theorem crc32_memRead_storeByte_ne {s : State} {x a n : Nat} {b : Byte} (hlow : a ≤ x) (hhigh : x < a + n)
    (hb : b ≠ s.byteAt x) : crc32 ((s.storeBytes x [b]).memRead a n) ≠ crc32 (s.memRead a n) := by
  rw [memRead_eq_append_cons _ hlow hhigh, memRead_eq_append_cons s hlow hhigh,
    memRead_storeByte_outside b (by omega), memRead_storeByte_outside b (by omega), State.byteAt_storeByte, if_pos rfl]
  exact crc32_ne_of_ne _ _ hb

/-- R88: the type bytes and the payload of the record at SRC are one range. -/
theorem spanType_append_spanPayload (s : State) :
    s.spanType ++ s.spanPayload = s.memRead (s.srcAddr + 4) (4 + s.declaredLen.toNat) := by
  rw [State.memRead_eq_bytesFrom _ (s.srcAddr + 4) (4 + _), bytesFrom_append, State.spanType, State.spanPayload,
    State.memRead_eq_bytesFrom, State.memRead_eq_bytesFrom]

theorem raiseAt_err_ne_zero (s : State) (e : ErrorKind) (k : BitVec 2) : (s.raiseAt e k).err ≠ 0 := e.code_ne_zero

/-- R150: what a decode that succeeds has checked. -/
theorem execChunkDecode_success {s t : State} (h : execChunkDecode s = .next t) (ht : t.err = 0) :
    s.sourceInBounds = true ∧ s.srcLen = 12 + s.declaredLen.toNat ∧
      crc32 (s.spanType ++ s.spanPayload) = s.spanCrc := by
  obtain ⟨-, rfl⟩ | ⟨-, -, rfl⟩ | ⟨-, -, -, rfl⟩ | ⟨-, -, k, -, rfl⟩ | ⟨-, -, -, -, rfl⟩ | ⟨hb, hl, -, hc, -⟩ :=
    execChunkDecode_cases h
  case inr.inr.inr.inr.inr => exact ⟨hb, hl, hc⟩
  all_goals exact absurd ht (raiseAt_err_ne_zero _ _ _)

section
variable {s : State} {x : Nat} (b : Byte) (hlow : s.srcAddr + 4 ≤ x)
include hlow

theorem declaredLen_storeByte : (s.storeBytes x [b]).declaredLen = s.declaredLen :=
  congrArg be32 (memRead_storeByte_outside b (.inr hlow))

theorem spanCrc_storeByte (hhigh : x < s.srcAddr + 8 + s.declaredLen.toNat) :
    (s.storeBytes x [b]).spanCrc = s.spanCrc := by
  rw [State.spanCrc, declaredLen_storeByte b hlow]
  exact congrArg be32 (memRead_storeByte_outside b (.inl hhigh))

/-- R107 on the record at SRC: another byte in its type or payload changes the checksum that CHUNK_DECODE computes. -/
theorem crc32_span_storeByte_ne (hhigh : x < s.srcAddr + 8 + s.declaredLen.toNat) (hb : b ≠ s.byteAt x) :
    crc32 ((s.storeBytes x [b]).spanType ++ (s.storeBytes x [b]).spanPayload) ≠
      crc32 (s.spanType ++ s.spanPayload) := by
  have hsrc : (s.storeBytes x [b]).srcAddr = s.srcAddr := rfl
  rw [spanType_append_spanPayload, spanType_append_spanPayload, declaredLen_storeByte b hlow, hsrc]
  exact crc32_memRead_storeByte_ne hlow (by omega) hb

end

end Sys2Proof.Machine

open Sys2Proof Sys2Proof.Machine

/-- Settles O38: the changed byte is outside the length and checksum fields, so the checks before the type bytes pass as
they did, and the stored checksum is no longer that of the type bytes and payload. -/
theorem decodeDetectsOneCorruptByte : Obligations.DecodeDetectsOneCorruptByte := by
  intro s t x b h ht hlow hend hb
  obtain ⟨hbounds, hlen, hcrc⟩ := execChunkDecode_success h ht
  have hlow : s.srcAddr + 4 ≤ x := hlow
  have hend : x < s.srcAddr + s.srcLen - 4 := hend
  have hhigh : x < s.srcAddr + 8 + s.declaredLen.toNat := by omega
  have hlen' : (s.storeBytes x [b]).srcLen = 12 + (s.storeBytes x [b]).declaredLen.toNat := by
    rw [declaredLen_storeByte b hlow]
    exact hlen
  obtain ⟨u, hu⟩ := exec_total .chunkDecode (s.storeBytes x [b])
  refine ⟨u, hu, ?_⟩
  obtain ⟨hout, -⟩ | ⟨-, hshort, -⟩ | ⟨-, -, hwrong, -⟩ | ⟨-, -, k, -, rfl⟩ | ⟨-, -, -, -, rfl⟩ | ⟨-, -, -, hsame, -⟩ :=
    execChunkDecode_cases hu
  · exact absurd (hbounds.symm.trans hout) (by decide)
  · omega
  · exact absurd hlen' hwrong
  · exact .inl rfl
  · exact .inr rfl
  · rw [spanCrc_storeByte b hlow hhigh, ← hcrc] at hsame
    exact absurd hsame (crc32_span_storeByte_ne b hlow hhigh hb)

end

section
/-! PROOFS. Type codes: the letters and their case bit, the flags, and the two commands that construct a type code
(R120 to R131). -/

namespace Sys2Proof.Safety

open Sys2Proof.Machine

theorem getLsbD_five_iff (b : Byte) : b.getLsbD 5 = true ↔ b.toNat / 2 ^ 5 % 2 = 1 := by
  rw [BitVec.getLsbD, Nat.testBit_eq_decide_div_mod_eq, decide_eq_true_iff]

/-- R123: the lower-case letters are those with bit 5 set. -/
theorem IsLetter.lower_iff {b : Byte} (h : IsLetter b) : b.getLsbD 5 = true ↔ 0x61 ≤ b.toNat ∧ b.toNat ≤ 0x7A := by
  unfold IsLetter at h
  rw [getLsbD_five_iff]
  omega

/-- R123: the upper-case letters are those with bit 5 clear. -/
theorem IsLetter.upper_iff {b : Byte} (h : IsLetter b) : b.getLsbD 5 = false ↔ 0x41 ≤ b.toNat ∧ b.toNat ≤ 0x5A := by
  rw [← Bool.not_eq_true, h.lower_iff]
  unfold IsLetter at h
  omega

/-- R129: two type codes with the same byte `k` have the same bit 5 of it. -/
theorem caseBit_eq_of_typeByte_eq {t u : Word} (k : Nat) (h : typeByte t k = typeByte u k) :
    t.getLsbD (24 - 8 * k + 5) = u.getLsbD (24 - 8 * k + 5) := by
  rw [← typeByte_getLsbD t k (by decide), h, typeByte_getLsbD u k (by decide)]

/-- R122: a type code that is not four letters has a first byte that is none. -/
theorem not_lettersOnly_iff (t : Word) : ¬ LettersOnly t ↔ ∃ k, FirstNonLetterAt t k := by
  classical
  constructor
  · intro h
    have hex : ∃ k, k < 4 ∧ ¬ IsLetter (typeByte t k) := by simpa [LettersOnly] using h
    obtain ⟨hlt, hnot⟩ := Nat.find_spec hex
    refine ⟨Nat.find hex, hlt, hnot, fun j hj => ?_⟩
    by_contra hletter
    exact Nat.find_min hex hj ⟨hj.trans hlt, hletter⟩
  · rintro ⟨k, hk, hnot, -⟩ hall
    exact hnot (hall k hk)

end Sys2Proof.Safety

namespace Sys2Proof.Machine

open Sys2Proof.Safety

theorem execTcLoad_letters {s : State} (h : LettersOnly s.typeIn) :
    execTcLoad s = .next (s.loadType s.typeIn).succeed := by
  rw [execTcLoad, (validate_none_iff _).mpr h]

theorem execTcLoad_nonLetter {s : State} {k : Nat} (h : FirstNonLetterAt s.typeIn k) :
    execTcLoad s = .next (s.raiseAt .badTypeByte (BitVec.ofNat 2 k)) := by
  rw [execTcLoad, validate_of_first h]

/-- R130: what a TC_LOAD that succeeds has checked and done. -/
theorem execTcLoad_success {s t : State} (h : execTcLoad s = .next t) (ht : t.err = 0) :
    LettersOnly s.typeIn ∧ t = (s.loadType s.typeIn).succeed := by
  obtain ⟨k, -, rfl⟩ | ⟨hv, rfl⟩ := execTcLoad_cases h
  · exact absurd ht (raiseAt_err_ne_zero _ _ _)
  · exact ⟨(validate_none_iff _).mp hv, rfl⟩

theorem loadType_succeed_tflags (s : State) (t : Word) :
    (s.loadType t).succeed.tflags = (flags t).zeroExtend 32 :=
  State.tflags_of_valid rfl

theorem memRead_four (s : State) (a : Nat) :
    s.memRead a 4 = [s.byteAt a, s.byteAt (a + 1), s.byteAt (a + 2), s.byteAt (a + 3)] := rfl

/-- R16: a packed value with the bytes of a BUF range, one by one, is that range packed. -/
theorem memRead_eq_bytesOf {s : State} {a : Nat} {w : Word} (h : ∀ k, k < 4 → typeByte w k = s.byteAt (a + k)) :
    s.memRead a 4 = bytesOf w := by
  rw [bytesOf_eq_typeBytes, h 0 (by decide), h 1 (by decide), h 2 (by decide), h 3 (by decide), memRead_four]
  rfl

theorem execTcLoadStr_outOfBounds {s : State} (h : s.bufSize < s.src.toNat + s.slen.toNat) :
    execTcLoadStr s = .next (s.raise .outOfBounds) := by
  have hbound : ¬ s.sourceInBounds = true := mt (sourceInBounds_iff s).mp (Nat.not_le.mpr h)
  simp [execTcLoadStr, hbound]

theorem execTcLoadStr_wrongLength {s : State} (h : s.src.toNat + s.slen.toNat ≤ s.bufSize) (hl : s.slen.toNat ≠ 4) :
    execTcLoadStr s = .next (s.raise .wrongTypeLength) := by
  have hlen : s.srcLen ≠ 4 := hl
  simp [execTcLoadStr, (sourceInBounds_iff s).mpr h, hlen]

section
variable {s : State} {w : Word} (hb : s.src.toNat + s.slen.toNat ≤ s.bufSize) (hl : s.slen.toNat = 4)
  (hw : s.memRead s.srcAddr 4 = bytesOf w)
include hb hl hw

theorem execTcLoadStr_letters (h : LettersOnly w) : execTcLoadStr s = .next (s.loadType w).succeed := by
  have hlen : s.srcLen = 4 := hl
  have hpack : pack (bytesOf w) = w := be32_toBe32 w
  simp [execTcLoadStr, (sourceInBounds_iff s).mpr hb, hlen, hw, (validate_none_iff w).mpr h, hpack]

theorem execTcLoadStr_nonLetter {k : Nat} (h : FirstNonLetterAt w k) :
    execTcLoadStr s = .next (s.raiseAt .badTypeByte (BitVec.ofNat 2 k)) := by
  have hlen : s.srcLen = 4 := hl
  simp [execTcLoadStr, (sourceInBounds_iff s).mpr hb, hlen, hw, validate_of_first h]

end

end Sys2Proof.Machine

open Sys2Proof Sys2Proof.Machine Sys2Proof.Safety

/-- Settles O17: each flag is one bit of the type code, and that bit is bit 5 of one type byte. -/
theorem flagsDependOnTheirOwnByte : Obligations.FlagsDependOnTheirOwnByte := by
  intro t u
  obtain ⟨ht0, ht1, ht2, ht3, ht4⟩ := flags_getLsbD t
  obtain ⟨hu0, hu1, hu2, hu3, hu4⟩ := flags_getLsbD u
  rw [ht0, ht1, ht2, ht3, ht4, hu0, hu1, hu2, hu3, hu4]
  have critical_eq (h : t.getLsbD 29 = u.getLsbD 29) : critical t = critical u := by rw [critical, critical, h]
  have public_eq (h : t.getLsbD 21 = u.getLsbD 21) : isPublic t = isPublic u := by rw [isPublic, isPublic, h]
  have reserved_eq (h : t.getLsbD 13 = u.getLsbD 13) : reservedValid t = reservedValid u ∧ isValid t = isValid u := by
    rw [isValid, isValid, reservedValid, reservedValid, h]
    exact ⟨rfl, rfl⟩
  exact ⟨critical_eq, public_eq, reserved_eq, id, fun h => critical_eq (caseBit_eq_of_typeByte_eq 0 h),
    fun h => public_eq (caseBit_eq_of_typeByte_eq 1 h), fun h => reserved_eq (caseBit_eq_of_typeByte_eq 2 h),
    caseBit_eq_of_typeByte_eq 3⟩

/-- Settles O18: bit 5 parts the two letter ranges, and each flag of a loaded type code is bit 5 of a letter. -/
theorem letterCaseIsBitFive : Obligations.LetterCaseIsBitFive := by
  refine ⟨isLetter_iff, fun b hb => ?_, fun s t h ht => ?_⟩
  · have hletter := (isLetter_iff b).mp hb
    exact ⟨hletter.upper_iff, hletter.lower_iff⟩
  · obtain ⟨hletters, rfl⟩ := execTcLoad_success h ht
    obtain ⟨h0, h1, h2, h3, h4, -⟩ := flags_view_fields s.typeIn
    have upper (k : Nat) (hk : k < 4) := (hletters k hk).upper_iff
    rw [loadType_succeed_tflags, h0, h1, h2, h3, h4]
    simp only [Bool.not_eq_true']
    exact ⟨upper 0 (by decide), upper 1 (by decide), upper 2 (by decide), (hletters 3 (by decide)).lower_iff,
      upper 2 (by decide)⟩

/-- Settles O25: the scan of R121 passes four letters, and else answers the first byte that is none. -/
theorem tcLoadResult : Obligations.TcLoadResult :=
  ⟨decode_encode .tcLoad, fun s =>
    ⟨fun h => ⟨_, execTcLoad_letters h, rfl, loadType_succeed_tflags s _, rfl⟩, fun _ h => execTcLoad_nonLetter h⟩⟩

/-- Settles O26: success is the scan's, and a failed scan has a first offender. -/
theorem typeCodeConstructsIffLetters : Obligations.TypeCodeConstructsIffLetters := by
  refine fun s => ⟨⟨?_, fun h => ⟨_, execTcLoad_letters h, rfl⟩⟩, not_lettersOnly_iff _⟩
  rintro ⟨t, h, ht⟩
  exact (execTcLoad_success h ht).1

/-- Settles O27: one clause for each check, in order; the string at SRC is the bytes of `w`. -/
theorem tcLoadStrResult : Obligations.TcLoadStrResult := by
  refine ⟨decode_encode .tcLoadStr, fun s =>
    ⟨execTcLoadStr_outOfBounds, execTcLoadStr_wrongLength, fun w hb hl hbytes => ?_⟩⟩
  have hw : s.memRead s.srcAddr 4 = bytesOf w := memRead_eq_bytesOf hbytes
  exact ⟨fun h => ⟨_, execTcLoadStr_letters hb hl hw h, rfl, loadType_succeed_tflags s w⟩,
    fun _ h => execTcLoadStr_nonLetter hb hl hw h⟩

end

section
/-! PROOFS. IS_VALID gates no command (R132): the letter checks do not see the case of a byte, and no other check of a
command sees a type code. -/

namespace Sys2Proof.Machine

open Sys2Proof.Safety

/-- ERR and ERR_IDX of the state that a command answers. -/
def resultStatus : Result → Option (BitVec 4 × BitVec 2)
  | .next t => some (t.err, t.errIdx)
  | .fault _ => none
  | .refused _ => none

@[simp] theorem resultStatus_succeed (t : State) : resultStatus (.next t.succeed) = some (0, 0) := rfl

@[simp] theorem resultStatus_raise (s : State) (e : ErrorKind) :
    resultStatus (.next (s.raise e)) = some (e.code, 0) := rfl

theorem status_eq_of_resultStatus_eq {r r' : Result} {t t' : State} (hstatus : resultStatus r' = resultStatus r)
    (h : r = .next t) (h' : r' = .next t') : t'.err = t.err ∧ t'.errIdx = t.errIdx := by
  subst h h'
  simpa [resultStatus] using hstatus

/-- R120: the two letter ranges are each other's image under a change of bit 5. -/
theorem isLetter_xor_caseBit : ∀ b : Byte, isLetter (b ^^^ 0x20) = isLetter b := by
  decide

/-- R121: the scan does not see the case of byte 2. -/
theorem validate_xor_caseBit (b0 b1 b2 b3 : Byte) : validate [b0, b1, b2 ^^^ 0x20, b3] = validate [b0, b1, b2, b3] := by
  simp only [validate, firstNonLetter, isLetter_xor_caseBit]

theorem typeByte_xor (t u : Word) (k : Nat) : typeByte (t ^^^ u) k = typeByte t k ^^^ typeByte u k :=
  BitVec.extractLsb'_xor

/-- R16: bit 13 of a packed type code is the case bit of its byte 2. -/
theorem bytesOf_xor_caseBit (t : Word) :
    bytesOf (t ^^^ 0x00002000) = [typeByte t 0, typeByte t 1, typeByte t 2 ^^^ 0x20, typeByte t 3] := by
  have h0 : typeByte 0x00002000 0 = 0#8 := by decide
  have h1 : typeByte 0x00002000 1 = 0#8 := by decide
  have h2 : typeByte 0x00002000 2 = 0x20 := by decide
  have h3 : typeByte 0x00002000 3 = 0#8 := by decide
  rw [bytesOf_eq_typeBytes, typeByte_xor, typeByte_xor, typeByte_xor, typeByte_xor, h0, h1, h2, h3, BitVec.xor_zero,
    BitVec.xor_zero, BitVec.xor_zero]

theorem validate_bytesOf_xor {x : Word} (hx : x ∈ [0, 0x00002000]) (t : Word) :
    validate (bytesOf (t ^^^ x)) = validate (bytesOf t) := by
  obtain rfl | rfl := List.mem_pair.mp hx
  · exact congrArg (validate <| bytesOf ·) BitVec.xor_zero
  · rw [bytesOf_xor_caseBit, validate_xor_caseBit, bytesOf_eq_typeBytes]

section
variable {s s' : State}

/-- R130: the scan alone decides how TC_LOAD ends. -/
theorem resultStatus_execTcLoad (h : validate (bytesOf s'.typeIn) = validate (bytesOf s.typeIn)) :
    resultStatus (execTcLoad s') = resultStatus (execTcLoad s) := by
  rw [execTcLoad, execTcLoad, h]
  cases validate (bytesOf s.typeIn) <;> rfl

/-- R131: what decides how TC_LOAD_STR ends. -/
theorem resultStatus_execTcLoadStr (hb : s'.sourceInBounds = s.sourceInBounds) (hl : s'.srcLen = s.srcLen)
    (hv : validate (s'.memRead s'.srcAddr 4) = validate (s.memRead s.srcAddr 4)) :
    resultStatus (execTcLoadStr s') = resultStatus (execTcLoadStr s) := by
  simp only [execTcLoadStr, apply_ite resultStatus, hb, hl, hv]
  cases validate (s.memRead s.srcAddr 4) <;> rfl

/-- R150: what decides how CHUNK_DECODE ends. -/
theorem resultStatus_execChunkDecode (hb : s'.sourceInBounds = s.sourceInBounds) (hl : s'.srcLen = s.srcLen)
    (hd : s'.declaredLen = s.declaredLen) (hv : validate s'.spanType = validate s.spanType)
    (hc : crc32 (s'.spanType ++ s'.spanPayload) = s'.spanCrc ↔ crc32 (s.spanType ++ s.spanPayload) = s.spanCrc) :
    resultStatus (execChunkDecode s') = resultStatus (execChunkDecode s) := by
  simp only [State.spanPayload, State.spanCrc, hd] at hc
  simp only [execChunkDecode, apply_ite resultStatus, hb, hl, hd, hv]
  cases validate s.spanType with
  | some k => rfl
  | none =>
    simp only [apply_ite resultStatus, ne_eq, hc]
    rfl

end

/-- The state with other values in the three registers that hold a type code. -/
def State.withTypes (s : State) (typeIn typeReg chType : Word) : State :=
  { s with typeIn := typeIn, typeReg := typeReg, chType := chType }

section
variable (s : State) (typeIn typeReg chType : Word)

theorem State.memRead_withTypes (a n : Nat) : (s.withTypes typeIn typeReg chType).memRead a n = s.memRead a n := by
  rw [State.memRead_eq_bytesFrom, State.memRead_eq_bytesFrom]
  rfl

/-- R132: but for TC_LOAD, no command's checks read a register that holds a type code. -/
theorem resultStatus_exec_withTypes {i : Instr} (hi : i ≠ .tcLoad) :
    resultStatus (exec i (s.withTypes typeIn typeReg chType)) = resultStatus (exec i s) := by
  have hread := s.memRead_withTypes typeIn typeReg chType
  cases i with
  | tcLoad => exact absurd rfl hi
  | nop | crcInit => rfl
  | tcLoadStr => exact resultStatus_execTcLoadStr rfl rfl (congrArg validate (hread ..))
  | chunkNew =>
    simp only [exec, execChunkNew, apply_ite resultStatus, resultStatus_raise, resultStatus_succeed]
    rfl
  | chunkEncode =>
    simp only [exec, execChunkEncode, apply_ite resultStatus, resultStatus_raise, resultStatus_succeed]
    rfl
  | chunkDecode =>
    have hlen : (s.withTypes typeIn typeReg chType).declaredLen = s.declaredLen := congrArg be32 (hread ..)
    refine resultStatus_execChunkDecode rfl rfl hlen (congrArg validate (hread ..)) ?_
    simp only [State.spanType, State.spanPayload, State.spanCrc, hlen, hread]
    rfl
  | chunkText =>
    have hpayload : (s.withTypes typeIn typeReg chType).payload = s.payload := hread ..
    simp only [exec, execChunkText, apply_ite resultStatus, resultStatus_raise, resultStatus_succeed, hpayload]
    rfl
  | crcUpdate =>
    simp only [exec, execCrcUpdate, apply_ite resultStatus, resultStatus_raise, resultStatus_succeed]
    rfl

end

theorem wireRecord_length (ty p : List Byte) : (wireRecord ty p).length = 8 + ty.length + p.length := by
  simp only [wireRecord, toBe32, List.length_append, List.length_cons, List.length_nil]
  omega

/-- R88, R90: the fields of the record at SRC. -/
theorem span_of_wireRecord {s : State} {ty p : List Byte} (hty : ty.length = 4)
    (h : bytesFrom s s.src.toNat s.slen.toNat = wireRecord ty p) :
    s.declaredLen.toNat = p.length ∧ s.spanType = ty ∧ s.spanPayload = p ∧ s.spanCrc = crc32 (ty ++ p) := by
  have hspan : s.slen.toNat = 4 + (4 + (p.length + 4)) := by
    have hlength := congrArg List.length h
    rw [bytesFrom_length, wireRecord_length] at hlength
    omega
  have hsize : p.length < 2 ^ 32 := by
    have hword := s.slen.isLt
    omega
  rw [hspan, bytesFrom_append, bytesFrom_append, bytesFrom_append, wireRecord, List.append_assoc, List.append_assoc] at h
  simp only [← State.memRead_eq_bytesFrom] at h
  obtain ⟨hlen, h⟩ := List.append_inj h (by simp [toBe32])
  obtain ⟨htype, h⟩ := List.append_inj h (by simp [hty])
  obtain ⟨hpayload, hcrc⟩ := List.append_inj h (by simp)
  have hdeclared : s.declaredLen.toNat = p.length := by
    rw [State.declaredLen, State.srcAddr, hlen, be32_toBe32, BitVec.toNat_ofNat, Nat.mod_eq_of_lt hsize]
  refine ⟨hdeclared, htype, ?_, ?_⟩
  · rw [State.spanPayload, hdeclared]
    exact hpayload
  · rw [State.spanCrc, hdeclared, ← be32_toBe32 (crc32 _)]
    exact congrArg be32 hcrc

/-- R132 for TC_LOAD_STR: the string with the case of its byte 2 changed ends the command as the string does. -/
theorem resultStatus_execTcLoadStr_recased (s : State) :
    resultStatus (execTcLoadStr (s.storeBytes (s.srcAddr + 2) [s.byteAt (s.srcAddr + 2) ^^^ 0x20])) =
      resultStatus (execTcLoadStr s) := by
  refine resultStatus_execTcLoadStr rfl rfl ?_
  have hbytes : (s.storeBytes (s.srcAddr + 2) [s.byteAt (s.srcAddr + 2) ^^^ 0x20]).memRead s.srcAddr 4 =
      [s.byteAt s.srcAddr, s.byteAt (s.srcAddr + 1), s.byteAt (s.srcAddr + 2) ^^^ 0x20, s.byteAt (s.srcAddr + 3)] := by
    simp [memRead_four, State.byteAt_storeByte]
  exact (congrArg validate hbytes).trans (validate_xor_caseBit ..)

/-- R132 for CHUNK_DECODE: both records have a right length and a right checksum, so only the bounds and the letters
decide. -/
theorem resultStatus_execChunkDecode_recased {s s' : State} {b0 b1 b2 b3 : Byte} {p : List Byte}
    (hb : s'.sourceInBounds = s.sourceInBounds) (hl : s'.srcLen = s.srcLen)
    (hs : bytesFrom s s.src.toNat s.slen.toNat = wireRecord [b0, b1, b2, b3] p)
    (hs' : bytesFrom s' s'.src.toNat s'.slen.toNat = wireRecord [b0, b1, b2 ^^^ 0x20, b3] p) :
    resultStatus (execChunkDecode s') = resultStatus (execChunkDecode s) := by
  obtain ⟨hlen, htype, hpayload, hcrc⟩ := span_of_wireRecord rfl hs
  obtain ⟨hlen', htype', hpayload', hcrc'⟩ := span_of_wireRecord rfl hs'
  refine resultStatus_execChunkDecode hb hl (BitVec.eq_of_toNat_eq (hlen'.trans hlen.symm)) ?_ (iff_of_true ?_ ?_)
  · rw [htype, htype', validate_xor_caseBit]
  · rw [htype', hpayload', hcrc']
  · rw [htype, hpayload, hcrc]

end Sys2Proof.Machine

open Sys2Proof Sys2Proof.Machine

/-- Settles O28: how a command ends depends on a type code only through the letter scan, which does not see case. -/
theorem isValidGatesNoCommand : Obligations.IsValidGatesNoCommand := by
  refine ⟨fun i s t t' x y z hx _ _ h h' => status_eq_of_resultStatus_eq ?_ h h',
    fun s t t' => status_eq_of_resultStatus_eq (resultStatus_execTcLoadStr_recased s),
    fun s t t' m b0 b1 b2 b3 p hs hs' =>
      status_eq_of_resultStatus_eq (resultStatus_execChunkDecode_recased rfl rfl hs hs')⟩
  by_cases hi : i = .tcLoad
  · subst hi
    exact resultStatus_execTcLoad (validate_bytesOf_xor hx _)
  · exact resultStatus_exec_withTypes s _ _ _ hi

end

section
/-! PROOFS. NOP, CHUNK_NEW and CHUNK_ENCODE: each outcome with its check, and the record that CHUNK_ENCODE writes (R140,
R143, R145, R146). -/

namespace Sys2Proof.Machine

open Sys2Proof.Safety

theorem sourceInBounds_eq_false {s : State} (h : s.bufSize < s.src.toNat + s.slen.toNat) : s.sourceInBounds = false :=
  Bool.eq_false_iff.mpr (mt (sourceInBounds_iff s).mp (Nat.not_le.mpr h))

theorem execChunkNew_noType {s : State} (h : s.tcValid = false) : execChunkNew s = .next (s.raise .noType) := by
  simp [execChunkNew, h]

theorem execChunkNew_outOfBounds {s : State} (h : s.tcValid = true) (hb : s.bufSize < s.src.toNat + s.slen.toNat) :
    execChunkNew s = .next (s.raise .outOfBounds) := by
  simp [execChunkNew, h, sourceInBounds_eq_false hb]

theorem execChunkNew_binds {s : State} (h : s.tcValid = true) (hb : s.src.toNat + s.slen.toNat ≤ s.bufSize) :
    execChunkNew s = .next (s.bindChunk s.typeReg s.src s.slen
      (crc32 (bytesOf s.typeReg ++ bytesFrom s s.src.toNat s.slen.toNat))).succeed := by
  have hsource : s.source = bytesFrom s s.src.toNat s.slen.toNat := s.memRead_eq_bytesFrom ..
  simp [execChunkNew, h, (sourceInBounds_iff s).mpr hb, hsource]

/-- R38: after a command that binds a chunk, CFLAGS shows the new chunk's flags. -/
theorem bindChunk_succeed_cflags (s : State) (t a n c : Word) :
    (s.bindChunk t a n c).succeed.cflags = (flags t).zeroExtend 32 :=
  State.cflags_of_valid rfl

theorem State.payload_eq_bytesFrom (s : State) : s.payload = bytesFrom s s.chAddr.toNat s.chLen.toNat :=
  s.memRead_eq_bytesFrom ..

/-- R90, R146: the kept checksum is all that parts the bytes that CHUNK_ENCODE writes from the chunk's wire record. -/
theorem State.encoded_eq_wireRecord {s : State} (h : s.chCrc = crc32 (bytesOf s.chType ++ s.payload)) :
    s.encoded = wireRecord (bytesOf s.chType) s.payload := by
  have hlen : BitVec.ofNat 32 s.payload.length = s.chLen := by
    rw [State.payload, State.memRead_length, State.payloadLen, BitVec.ofNat_toNat, BitVec.setWidth_eq]
  rw [State.encoded, wireRecord, hlen, h]

/-- R39, R89: for a BUF_SIZE of R9 a record that fits has a length that OUT_LEN holds. -/
theorem recordLen_toNat {s : State} (hsize : Config.legalBufSize s.bufSize)
    (hb : s.dst.toNat + (12 + s.chLen.toNat) ≤ s.bufSize) :
    (BitVec.ofNat 32 s.recordLen).toNat = 12 + s.chLen.toNat := by
  have hmax := hsize.2
  rw [State.recordLen, State.payloadLen, BitVec.toNat_ofNat, Nat.mod_eq_of_lt (by omega)]

/-- R145: what a CHUNK_ENCODE that succeeds has checked and done. -/
theorem execChunkEncode_success {s t : State} (h : execChunkEncode s = .next t) (ht : t.err = 0) :
    s.chValid = true ∧ t = ((s.memWrite s.dstAddr s.encoded).setOutLen (BitVec.ofNat 32 s.recordLen)).succeed := by
  obtain ⟨-, rfl⟩ | ⟨-, -, rfl⟩ | ⟨hv, -, rfl⟩ := execChunkEncode_cases h
  · exact absurd ht (raiseAt_err_ne_zero _ _ _)
  · exact absurd ht (raiseAt_err_ne_zero _ _ _)
  · exact ⟨hv, rfl⟩

/-- R145: outside the 12 + CH_LEN bytes from its destination, CHUNK_ENCODE leaves BUF as it was. -/
theorem byteAt_encoded_outside (s : State) (o : Word) {x : Nat}
    (h : x < s.dst.toNat ∨ s.dst.toNat + (12 + s.chLen.toNat) ≤ x) :
    ((s.memWrite s.dstAddr s.encoded).setOutLen o).succeed.byteAt x = s.byteAt x := by
  have hout : ¬ (s.dstAddr ≤ x ∧ x < s.dstAddr + s.encoded.length) := by
    rw [State.encoded_length, State.dstAddr]
    omega
  exact State.byteAt_memWrite_outside hout

end Sys2Proof.Machine

open Sys2Proof Sys2Proof.Machine Sys2Proof.Safety

/-- Settles O29: NOP has one path, and the step on a write of its word to CMD runs it (O4). -/
theorem nopOnlyClearsTheError : Obligations.NopOnlyClearsTheError :=
  ⟨decode_encode .nop, fun s => ⟨rfl, fun rest hs => stepRunsTheCommandWritten s rest 0 .nop hs (decode_encode .nop)⟩⟩

/-- Settles O30: one clause for each check, in order. -/
theorem chunkNewResult : Obligations.ChunkNewResult :=
  ⟨decode_encode .chunkNew, fun s => ⟨execChunkNew_noType, execChunkNew_outOfBounds, fun h hb =>
    ⟨_, execChunkNew_binds h hb, rfl, bindChunk_succeed_cflags s _ _ _ _⟩⟩⟩

/-- Settles O31: the record is built from the state before the write, whose range is 12 + CH_LEN bytes from DST. -/
theorem chunkEncodeResult : Obligations.ChunkEncodeResult := by
  refine ⟨decode_encode .chunkEncode, fun s hsize => ⟨execChunkEncode_noChunk, fun hv hb => ?_, fun hv hb => ?_⟩⟩
  · have hout : s.inBounds s.dstAddr s.recordLen = false :=
      Bool.eq_false_iff.mpr (mt (inBounds_iff ..).mp (Nat.not_le.mpr hb))
    exact execChunkEncode_outOfBounds hv hout
  · refine ⟨_, execChunkEncode_fits hv hb, ?_, fun x => byteAt_encoded_outside s _, recordLen_toNat hsize hb, ?_,
      recordWrite_frame ..⟩
    · rw [← State.payload_eq_bytesFrom]
      exact bytesFrom_encoded s _ _
    · rw [State.succeed_chValid, State.setOutLen_chValid, memWrite_chValid_iff, ← Bool.not_eq_true, overlaps_iff_shared,
        State.encoded_length]
      exact and_iff_right hv

/-- Settles O32: by I4 of R48 the kept checksum is that of the chunk's type and payload bytes. -/
theorem encoderWritesTheWireRecord : Obligations.EncoderWritesTheWireRecord := by
  intro s t hinv h ht
  obtain ⟨hv, rfl⟩ := execChunkEncode_success h ht
  have hcrc := hinv.chunkChecksum hv
  rw [← State.payload_eq_bytesFrom] at hcrc ⊢
  refine ⟨?_, fun x => byteAt_encoded_outside s _⟩
  rw [← State.encoded_eq_wireRecord hcrc]
  exact bytesFrom_encoded s _ _

end

section
/-! PROOFS. The wire record field by field, and CHUNK_DECODE: each outcome with its check (R88, R90, R150 to R152). -/

namespace Sys2Proof.Safety

open Sys2Proof.Machine

/-- R121: the scan finds nothing iff every byte is a letter. -/
theorem firstNonLetter_eq_none_iff (k : BitVec 2) (bs : List Byte) :
    firstNonLetter k bs = none ↔ ∀ b ∈ bs, IsLetter b := by
  induction bs generalizing k with
  | nil => simp [firstNonLetter]
  | cons b bs ih =>
    rw [firstNonLetter, List.forall_mem_cons, ← isLetter_iff]
    cases isLetter b with
    | true => simpa using ih (k + 1)
    | false => simp

/-- R152 on a sequence that is cut into the fields of R88. -/
theorem accepted_fields_iff {l t p c : List Byte} (hl : l.length = 4) (ht : t.length = 4) (hc : c.length = 4) :
    Accepted (l ++ (t ++ (p ++ c))) ↔
      p.length = (be32 l).toNat ∧ (∀ b ∈ t, IsLetter b) ∧ crc32 (t ++ p) = be32 c := by
  have hlen : (l ++ (t ++ (p ++ c))).length = 12 + p.length := by
    simp only [List.length_append]
    omega
  have htake : (l ++ (t ++ (p ++ c))).take 4 = l := List.take_left' hl
  have hdrop : (l ++ (t ++ (p ++ c))).drop 4 = t ++ (p ++ c) := List.drop_left' hl
  have htype : (t ++ (p ++ c)).take 4 = t := List.take_left' ht
  have hbody : (t ++ (p ++ c)).take (12 + p.length - 8) = t ++ p := by
    rw [← List.append_assoc]
    refine List.take_left' ?_
    rw [List.length_append]
    omega
  have hcrc : (l ++ (t ++ (p ++ c))).drop (12 + p.length - 4) = c := by
    rw [← List.append_assoc, ← List.append_assoc]
    refine List.drop_left' ?_
    simp only [List.length_append]
    omega
  rw [Accepted, hlen, htake, hdrop, htype, hbody, hcrc, Nat.add_right_inj]
  exact and_iff_right (Nat.le_add_right ..)

/-- R88: a sequence of at least 12 bytes, cut into the four fields. -/
theorem eq_fields {bs : List Byte} (h : 12 ≤ bs.length) :
    bs = bs.take 4 ++ ((bs.drop 4).take 4 ++ ((bs.drop 8).take (bs.length - 12) ++ bs.drop (bs.length - 4))) := by
  have hend : bs.drop (bs.length - 4) = (bs.drop 8).drop (bs.length - 12) := by
    rw [List.drop_drop]
    congr 1
    omega
  have hmid : bs.drop 8 = (bs.drop 4).drop 4 := by rw [List.drop_drop]
  rw [hend, List.take_append_drop, hmid, List.take_append_drop, List.take_append_drop]

theorem wireRecord_eq_fields (t p : List Byte) :
    wireRecord t p = toBe32 (BitVec.ofNat 32 p.length) ++ (t ++ (p ++ toBe32 (crc32 (t ++ p)))) := by
  rw [wireRecord, List.append_assoc, List.append_assoc]

/-- R152: a record whose length field holds its length has the four properties iff its type bytes are letters. -/
theorem accepted_wireRecord_iff {t p : List Byte} (ht : t.length = 4) (hp : p.length < 2 ^ 32) :
    Accepted (wireRecord t p) ↔ ∀ b ∈ t, IsLetter b := by
  rw [wireRecord_eq_fields, accepted_fields_iff rfl ht rfl, be32_toBe32, be32_toBe32, BitVec.toNat_ofNat,
    Nat.mod_eq_of_lt hp]
  simp only [true_and, and_true]

/-- R152: a sequence with the four properties is the record of its own type and payload bytes. -/
theorem Accepted.letters_and_eq_wireRecord {bs : List Byte} (h : Accepted bs) :
    (∀ b ∈ (bs.drop 4).take 4, IsLetter b) ∧
      bs = wireRecord ((bs.drop 4).take 4) ((bs.drop 8).take (bs.length - 12)) := by
  have hmin := h.1
  have hl : (bs.take 4).length = 4 := by rw [List.length_take]; omega
  have ht : ((bs.drop 4).take 4).length = 4 := by rw [List.length_take, List.length_drop]; omega
  have hc : (bs.drop (bs.length - 4)).length = 4 := by rw [List.length_drop]; omega
  have hcut := eq_fields hmin
  rw [hcut, accepted_fields_iff hl ht hc] at h
  obtain ⟨hlen, hletters, hcrc⟩ := h
  refine ⟨hletters, hcut.trans ?_⟩
  rw [wireRecord_eq_fields, hlen, hcrc, BitVec.ofNat_toNat, BitVec.setWidth_eq, toBe32_be32 hl, toBe32_be32 hc]

end Sys2Proof.Safety

namespace Sys2Proof.Machine

open Sys2Proof.Safety

theorem validate_eq_none_iff (bs : List Byte) : validate bs = none ↔ ∀ b ∈ bs, IsLetter b :=
  firstNonLetter_eq_none_iff 0 bs

/-- R15, R68: `be32` of four bytes of BUF. -/
theorem be32_memRead_toNat (s : State) (a : Nat) : (be32 (s.memRead a 4)).toNat = numberAt s a :=
  be32_toNat ..

theorem execChunkDecode_outOfBounds {s : State} (h : s.bufSize < s.src.toNat + s.slen.toNat) :
    execChunkDecode s = .next (s.raise .outOfBounds) := by
  simp [execChunkDecode, sourceInBounds_eq_false h]

section
variable {s : State} (hb : s.src.toNat + s.slen.toNat ≤ s.bufSize)
include hb

theorem execChunkDecode_incomplete (h : s.slen.toNat < 12) : execChunkDecode s = .next (s.raise .incomplete) := by
  have hshort : s.srcLen < 12 := h
  simp [execChunkDecode, (sourceInBounds_iff s).mpr hb, hshort]

theorem execChunkDecode_invalidLength (hmin : 12 ≤ s.slen.toNat) (h : s.srcLen ≠ 12 + s.declaredLen.toNat) :
    execChunkDecode s = .next (s.raise .invalidLength) := by
  have hmin : ¬ s.srcLen < 12 := Nat.not_lt.mpr hmin
  simp [execChunkDecode, (sourceInBounds_iff s).mpr hb, hmin, h]

section
variable (hl : s.srcLen = 12 + s.declaredLen.toNat)
include hl

theorem execChunkDecode_badTypeByte {k : BitVec 2} (h : validate s.spanType = some k) :
    execChunkDecode s = .next (s.raiseAt .badTypeByte k) := by
  simp [execChunkDecode, (sourceInBounds_iff s).mpr hb, hl, h]

theorem execChunkDecode_checksumMismatch (hv : validate s.spanType = none)
    (hc : crc32 (s.spanType ++ s.spanPayload) ≠ s.spanCrc) :
    execChunkDecode s = .next (s.raise .checksumMismatch) := by
  simp [execChunkDecode, (sourceInBounds_iff s).mpr hb, hl, hv, hc]

theorem execChunkDecode_binds (hv : validate s.spanType = none)
    (hc : crc32 (s.spanType ++ s.spanPayload) = s.spanCrc) :
    execChunkDecode s =
      .next (s.bindChunk (pack s.spanType) (BitVec.ofNat 32 (s.srcAddr + 8)) s.declaredLen s.spanCrc).succeed := by
  simp [execChunkDecode, (sourceInBounds_iff s).mpr hb, hl, hv, hc]

end

end

/-- R150: what a decode that succeeds has checked and bound. -/
theorem execChunkDecode_success_binds {s t : State} (h : execChunkDecode s = .next t) (ht : t.err = 0) :
    s.sourceInBounds = true ∧ s.srcLen = 12 + s.declaredLen.toNat ∧ validate s.spanType = none ∧
      crc32 (s.spanType ++ s.spanPayload) = s.spanCrc ∧
      t = (s.bindChunk (pack s.spanType) (BitVec.ofNat 32 (s.srcAddr + 8)) s.declaredLen s.spanCrc).succeed := by
  obtain ⟨-, rfl⟩ | ⟨-, -, rfl⟩ | ⟨-, -, -, rfl⟩ | ⟨-, -, k, -, rfl⟩ | ⟨-, -, -, -, rfl⟩ | hdone :=
    execChunkDecode_cases h
  case inr.inr.inr.inr.inr => exact hdone
  all_goals exact absurd ht (raiseAt_err_ne_zero _ _ _)

section
variable {s : State} (hl : s.srcLen = 12 + s.declaredLen.toNat)
include hl

/-- R88: the bytes of a span of the right length, field by field. -/
theorem span_eq_fields :
    bytesFrom s s.src.toNat s.slen.toNat = s.memRead s.srcAddr 4 ++ (s.spanType ++ (s.spanPayload ++
      s.memRead (s.srcAddr + 8 + s.declaredLen.toNat) 4)) := by
  have hspan : s.slen.toNat = 4 + (4 + (s.declaredLen.toNat + 4)) := by
    rw [State.srcLen] at hl
    omega
  rw [hspan, bytesFrom_append, bytesFrom_append, bytesFrom_append]
  simp only [State.spanType, State.spanPayload, State.memRead_eq_bytesFrom]
  rfl

/-- R150: the type and payload bytes are those from 4 to the last four. -/
theorem bytesFrom_typeAndPayload :
    bytesFrom s (s.src.toNat + 4) (s.slen.toNat - 8) = s.spanType ++ s.spanPayload := by
  have hspan : s.slen.toNat - 8 = 4 + s.declaredLen.toNat := by
    rw [State.srcLen] at hl
    omega
  rw [hspan, spanType_append_spanPayload, State.memRead_eq_bytesFrom]
  rfl

/-- R150: the checksum field is the last four bytes. -/
theorem numberAt_spanCrc : numberAt s (s.src.toNat + s.slen.toNat - 4) = s.spanCrc.toNat := by
  have hend : s.src.toNat + s.slen.toNat - 4 = s.srcAddr + 8 + s.declaredLen.toNat := by
    rw [State.srcLen] at hl
    rw [State.srcAddr]
    omega
  rw [hend]
  exact (be32_memRead_toNat ..).symm

/-- R150: for a BUF_SIZE of R9 the address of a decoded payload is SRC + 8 without wrap. -/
theorem decodedAddr_toNat (hb : s.src.toNat + s.slen.toNat ≤ s.bufSize) (hsize : Config.legalBufSize s.bufSize) :
    (BitVec.ofNat 32 (s.srcAddr + 8)).toNat = s.src.toNat + 8 := by
  have hmax := hsize.2
  rw [State.srcLen] at hl
  rw [State.srcAddr, BitVec.toNat_ofNat, Nat.mod_eq_of_lt (by omega)]

/-- R152 on a span of the right length. -/
theorem accepted_span_iff :
    Accepted (bytesFrom s s.src.toNat s.slen.toNat) ↔
      validate s.spanType = none ∧ crc32 (s.spanType ++ s.spanPayload) = s.spanCrc := by
  have hpayload : s.spanPayload.length = s.declaredLen.toNat := State.memRead_length ..
  rw [span_eq_fields hl, accepted_fields_iff (State.memRead_length ..) (State.memRead_length ..)
    (State.memRead_length ..), validate_eq_none_iff]
  exact and_iff_right hpayload

end

/-- R152: only a span of the right length has the four properties. -/
theorem srcLen_of_accepted {s : State} (h : Accepted (bytesFrom s s.src.toNat s.slen.toNat)) :
    s.srcLen = 12 + s.declaredLen.toNat := by
  obtain ⟨hmin, hlen, -⟩ := h
  rw [bytesFrom_length] at hmin hlen
  rw [bytesFrom_take s _ _ 4 (by omega), ← State.memRead_eq_bytesFrom] at hlen
  exact hlen

/-- R152: over a span in bounds, CHUNK_DECODE succeeds iff the span has the four properties. -/
theorem execChunkDecode_succeeds_iff {s : State} (hb : s.src.toNat + s.slen.toNat ≤ s.bufSize) :
    (∃ t, execChunkDecode s = .next t ∧ t.err = 0) ↔ Accepted (bytesFrom s s.src.toNat s.slen.toNat) := by
  constructor
  · rintro ⟨t, h, ht⟩
    obtain ⟨-, hl, hv, hc, -⟩ := execChunkDecode_success_binds h ht
    exact (accepted_span_iff hl).mpr ⟨hv, hc⟩
  · intro h
    have hl := srcLen_of_accepted h
    obtain ⟨hv, hc⟩ := (accepted_span_iff hl).mp h
    exact ⟨_, execChunkDecode_binds hb hl hv hc, rfl⟩

end Sys2Proof.Machine

open Sys2Proof Sys2Proof.Machine Sys2Proof.Safety

/-- Settles O33: one clause for each check, in order; the type bytes at SRC + 4 are those of `w`. -/
theorem chunkDecodeResult : Obligations.ChunkDecodeResult := by
  refine ⟨decode_encode .chunkDecode, fun s => ⟨execChunkDecode_outOfBounds, execChunkDecode_incomplete,
    fun hb hmin hl => execChunkDecode_invalidLength hb hmin ?_, fun w hb hl hbytes => ?_⟩⟩
  · rw [be32_memRead_toNat]
    exact hl
  have htype : s.spanType = bytesOf w := memRead_eq_bytesOf hbytes
  have hpack : pack s.spanType = w := by rw [htype, pack, bytesOf, be32_toBe32]
  have hdeclared : numberAt s s.src.toNat = s.declaredLen.toNat := (be32_memRead_toNat ..).symm
  rw [hdeclared] at hl ⊢
  rw [numberAt_spanCrc hl, bytesFrom_typeAndPayload hl, BitVec.ofNat_toNat, BitVec.ofNat_toNat, BitVec.setWidth_eq,
    BitVec.setWidth_eq]
  refine ⟨fun k hk => ?_, fun hw hc => ?_, fun hw hc => ?_⟩
  · exact execChunkDecode_badTypeByte hb hl (htype ▸ validate_of_first hk)
  all_goals have hv : validate s.spanType = none := htype ▸ (validate_none_iff w).mpr hw
  · exact execChunkDecode_checksumMismatch hb hl hv (mt (congrArg BitVec.toNat) hc)
  · have hexec := execChunkDecode_binds hb hl hv (BitVec.eq_of_toNat_eq hc)
    rw [hpack] at hexec
    exact ⟨_, hexec, rfl, bindChunk_succeed_cflags s _ _ _ _, rfl, decodedAddr_toNat hl hb⟩

/-- Settles O34: a decode that fails only raises (O41). -/
theorem failedDecodeKeepsTheChunk : Obligations.FailedDecodeKeepsTheChunk := by
  intro s t h ht
  obtain ⟨hok, -⟩ | ⟨-, hframe⟩ := (exec_ends h).status
  · exact absurd hok ht
  · rw [hframe]
    exact ⟨rfl, rfl, rfl, rfl, rfl⟩

/-- Settles O35: the checks of R150 are the properties of R152, and these are those of a record with letters for its
type. -/
theorem decoderAcceptsExactlyRecords : Obligations.DecoderAcceptsExactlyRecords := by
  refine fun s hb => ⟨execChunkDecode_succeeds_iff hb, fun bs hsize => ⟨fun h => ?_, ?_⟩⟩
  · obtain ⟨hletters, hrecord⟩ := h.letters_and_eq_wireRecord
    have hmin := h.1
    refine ⟨_, _, ?_, hletters, hrecord, rfl, rfl⟩
    rw [List.length_take, List.length_drop]
    omega
  · rintro ⟨ty, p, hty, hletters, rfl, -, -⟩
    rw [wireRecord_length] at hsize
    exact (accepted_wireRecord_iff hty (by omega)).mpr hletters

end

section
/-! PROOFS. Encode after decode, and decode after encode as a run of host actions (R153, R154). -/

namespace Sys2Proof.Machine

open Sys2Proof.Safety

/-- The chunk is valid, and `r` is what a CHUNK_ENCODE writes of it (R145). -/
structure EncodesTo (s : State) (r : List Byte) : Prop where
  valid : s.chValid = true
  record : s.encoded = r

/-- R143: a new chunk encodes to the record of the loaded type code and the source range. -/
theorem encodesTo_of_execChunkNew (s : State) :
    EncodesTo (s.bindChunk s.typeReg s.src s.slen
        (crc32 (bytesOf s.typeReg ++ bytesFrom s s.src.toNat s.slen.toNat))).succeed
      (wireRecord (bytesOf s.typeReg) (bytesFrom s s.src.toNat s.slen.toNat)) where
  valid := rfl
  record := by
    rw [State.encoded_eq_wireRecord] <;> rw [State.payload_eq_bytesFrom] <;> rfl

/-- R35, R150: the payload of a decoded chunk is the span's. -/
theorem payload_of_execChunkDecode {s t : State} (hsize : Config.legalBufSize s.bufSize)
    (h : execChunkDecode s = .next t) (ht : t.err = 0) : t.payload = s.spanPayload := by
  obtain ⟨hb, hl, -, -, rfl⟩ := execChunkDecode_success_binds h ht
  rw [State.payload_eq_bytesFrom, State.spanPayload, State.memRead_eq_bytesFrom, State.succeed_chAddr,
    State.bindChunk_chAddr, decodedAddr_toNat hl ((sourceInBounds_iff s).mp hb) hsize]
  rfl

/-- R150, R154: a decoded chunk encodes to the span that it was decoded from. -/
theorem encodesTo_of_execChunkDecode {s t : State} (hsize : Config.legalBufSize s.bufSize)
    (h : execChunkDecode s = .next t) (ht : t.err = 0) : EncodesTo t (bytesFrom s s.src.toNat s.slen.toNat) := by
  have hpayload := payload_of_execChunkDecode hsize h ht
  obtain ⟨-, hl, -, -, rfl⟩ := execChunkDecode_success_binds h ht
  have htype : bytesOf (pack s.spanType) = s.spanType := toBe32_be32 (State.memRead_length ..)
  have hlen : toBe32 s.declaredLen = s.memRead s.srcAddr 4 := toBe32_be32 (State.memRead_length ..)
  have hcrc : toBe32 s.spanCrc = s.memRead (s.srcAddr + 8 + s.declaredLen.toNat) 4 :=
    toBe32_be32 (State.memRead_length ..)
  refine ⟨rfl, ?_⟩
  calc _ = toBe32 s.declaredLen ++ bytesOf (pack s.spanType) ++ s.spanPayload ++ toBe32 s.spanCrc := by
        rw [State.encoded, hpayload]
        rfl
    _ = bytesFrom s s.src.toNat s.slen.toNat := by
        rw [hlen, htype, hcrc, span_eq_fields hl, List.append_assoc, List.append_assoc]

section
variable {s : State} {r : List Byte} (h : EncodesTo s r)
include h

theorem EncodesTo.length_eq : r.length = 12 + s.chLen.toNat := by
  rw [← h.record, State.encoded_length]

/-- The destination and the host's list are no part of what is encoded. -/
theorem EncodesTo.withDst (d : Word) (host : List HostAction) : EncodesTo { s with dst := d, host := host } r where
  valid := h.valid
  record := by
    rw [← h.record, State.encoded, State.encoded, State.payload_eq_bytesFrom, State.payload_eq_bytesFrom]
    rfl

/-- R145: where the record fits, CHUNK_ENCODE succeeds and leaves it at DST. -/
theorem EncodesTo.writes (hb : s.dst.toNat + r.length ≤ s.bufSize) :
    ∃ t, execChunkEncode s = .next t ∧ t.err = 0 ∧ t.host = s.host ∧ t.bufSize = s.bufSize ∧
      bytesFrom t s.dst.toNat r.length = r := by
  rw [h.length_eq] at hb ⊢
  refine ⟨_, execChunkEncode_fits h.valid hb, rfl, by simp, by simp, ?_⟩
  rw [← h.record]
  exact bytesFrom_encoded s s.dstAddr _

end

/-- R150 on a wire record with letters for its type: it decodes, to the record's type, payload and checksum. -/
theorem execChunkDecode_wireRecord {s : State} {ty p : List Byte} (hsize : Config.legalBufSize s.bufSize)
    (hb : s.src.toNat + s.slen.toNat ≤ s.bufSize) (hty : ty.length = 4) (hv : validate ty = none)
    (h : bytesFrom s s.src.toNat s.slen.toNat = wireRecord ty p) :
    ∃ t, execChunkDecode s = .next t ∧ t.err = 0 ∧ t.chValid = true ∧ t.chType = pack ty ∧
      t.chLen.toNat = p.length ∧ t.payload = p ∧ t.chCrc = crc32 (ty ++ p) := by
  obtain ⟨hlen, htype, hpayload, hcrc⟩ := span_of_wireRecord hty h
  have hl : s.srcLen = 12 + s.declaredLen.toNat := by
    have hlength := congrArg List.length h
    rw [bytesFrom_length, wireRecord_length, hty] at hlength
    rw [hlen]
    exact hlength
  have hexec := execChunkDecode_binds hb hl (by rwa [htype]) (by rw [htype, hpayload, hcrc])
  have hbound := payload_of_execChunkDecode hsize hexec rfl
  rw [htype, hcrc] at hexec hbound
  exact ⟨_, hexec, rfl, rfl, rfl, hlen, hbound.trans hpayload, rfl⟩

theorem step_command {i : Instr} {s t : State} {rest : List HostAction}
    (hs : s.host = .regWrite 0x00 (encode i) :: rest) (h : exec i (s.issue rest) = .next t) : step s = .next t :=
  ((step_cons hs).trans (runCommandWord_legal (decode_encode i) _)).trans h

section
variable {s : State} {v : Word} {rest : List HostAction}

theorem step_regWrite_src (h : s.host = .regWrite 0x08 v :: rest) :
    step s = .next { s with host := rest, src := v } := step_cons h

theorem step_regWrite_slen (h : s.host = .regWrite 0x0C v :: rest) :
    step s = .next { s with host := rest, slen := v } := step_cons h

theorem step_regWrite_dst (h : s.host = .regWrite 0x10 v :: rest) :
    step s = .next { s with host := rest, dst := v } := step_cons h

end

theorem step_chunkNew {s : State} {rest : List HostAction} (hv : s.tcValid = true)
    (hb : s.src.toNat + s.slen.toNat ≤ s.bufSize) (hs : s.host = .regWrite 0x00 (encode .chunkNew) :: rest) :
    ∃ t, step s = .next t ∧ t.host = rest ∧ t.bufSize = s.bufSize ∧
      EncodesTo t (wireRecord (bytesOf s.typeReg) (bytesFrom s s.src.toNat s.slen.toNat)) :=
  ⟨_, step_command hs (execChunkNew_binds hv hb), rfl, rfl, encodesTo_of_execChunkNew (s.issue rest)⟩

/-- R153, the first half: DST := d and CHUNK_ENCODE leave the chunk's record at `d`. -/
theorem EncodesTo.core_run_encode {s : State} {r : List Byte} {d : Word} {rest : List HostAction} (h : EncodesTo s r)
    (hb : d.toNat + r.length ≤ s.bufSize)
    (hs : s.host = .regWrite 0x10 d :: .regWrite 0x00 (encode .chunkEncode) :: rest) (n : Nat) :
    ∃ t, core.run (n + 2) s = core.run n t ∧ t.host = rest ∧ t.bufSize = s.bufSize ∧
      bytesFrom t d.toNat r.length = r := by
  obtain ⟨t, ht, -, hhost, hbuf, hbytes⟩ := (h.withDst d rest).writes hb
  have hencode := step_command (s := { s with host := .regWrite 0x00 (encode .chunkEncode) :: rest, dst := d }) rfl ht
  exact ⟨t, (core_run_succ (step_regWrite_dst hs)).trans (core_run_succ hencode), hhost, hbuf, hbytes⟩

/-- R153, the second half: SRC := a, SLEN := n and CHUNK_DECODE are the command on the state with these operands. -/
theorem core_run_decode {s t : State} {a n : Word} {rest : List HostAction}
    (hs : s.host = .regWrite 0x08 a :: .regWrite 0x0C n :: .regWrite 0x00 (encode .chunkDecode) :: rest)
    (h : execChunkDecode { s with src := a, slen := n, host := rest } = .next t) : core.run 3 s = .next t := by
  have hdecode := step_command
    (s := { s with src := a, slen := n, host := .regWrite 0x00 (encode .chunkDecode) :: rest }) rfl h
  rw [core_run_succ (step_regWrite_src hs), core_run_succ (step_regWrite_slen rfl), core_run_succ hdecode]
  rfl

end Sys2Proof.Machine

open Sys2Proof Sys2Proof.Machine Sys2Proof.Safety

/-- Settles O37: the decoded chunk encodes to its span, and the encoded bytes do not depend on DST. -/
theorem reEncodeWritesTheDecodedSpan : Obligations.ReEncodeWritesTheDecodedSpan := by
  intro s t d hsize h ht hd
  have hchunk := (encodesTo_of_execChunkDecode hsize h ht).withDst d t.host
  have hbuf : t.bufSize = s.bufSize := by
    obtain ⟨-, -, -, -, rfl⟩ := execChunkDecode_success_binds h ht
    rfl
  obtain ⟨u, hu, herr, -, -, hbytes⟩ := hchunk.writes (by rwa [bytesFrom_length, hbuf])
  rw [bytesFrom_length] at hbytes
  exact ⟨u, hu, herr, hbytes⟩

/-- Settles O36: CHUNK_NEW makes a chunk that encodes to a wire record; the encode leaves that record at `d`, where the
decode reads it back. -/
theorem recordRoundTrip : Obligations.RecordRoundTrip := by
  intro s d rest hsize hv hletters hb hd hs
  have hlength : (wireRecord (bytesOf s.typeReg) (bytesFrom s s.src.toNat s.slen.toNat)).length =
      12 + s.slen.toNat := by
    rw [wireRecord_length, bytesFrom_length]
    rfl
  have hslen : (s.slen + 12).toNat = 12 + s.slen.toNat := by
    have hmax := hsize.2
    bv_omega
  obtain ⟨t1, hnew, hhost1, hbuf1, hchunk⟩ := step_chunkNew hv hb hs
  obtain ⟨t2, hencode, hhost2, hbuf2, hrecord⟩ := hchunk.core_run_encode (by rwa [hlength, hbuf1]) hhost1 3
  rw [hlength, ← hslen] at hrecord
  have hbuf : t2.bufSize = s.bufSize := hbuf2.trans hbuf1
  obtain ⟨t, hdecode, herr, hvalid, htype, hlen, hpayload, hcrc⟩ :=
    execChunkDecode_wireRecord (s := { t2 with src := d, slen := s.slen + 12, host := rest }) (hbuf ▸ hsize)
      (by rw [hbuf, hslen]; exact hd) rfl ((validate_none_iff _).mpr hletters) hrecord
  refine ⟨t, ?_, herr, hvalid, ?_, ?_, ?_, hcrc⟩
  · rw [core_run_succ hnew, hencode, core_run_decode hhost2 hdecode]
  · exact htype.trans (be32_toBe32 _)
  · rw [bytesFrom_length] at hlen
    exact BitVec.eq_of_toNat_eq hlen
  · rw [← State.payload_eq_bytesFrom, hpayload]

end

section
/-! PROOFS. The text check against the table of UTF-8, and CHUNK_TEXT (R160, R161). -/

namespace Sys2Proof.Safety

open Sys2Proof.Machine

/-- The two copies of R160's table are the same. -/
theorem utf8Rows_eq_utf8Table : utf8Rows = utf8Table := rfl

theorem inRange_iff (b : Byte) (r : ByteRange) : inRange b r = true ↔ r.1 ≤ b ∧ b ≤ r.2 :=
  decide_eq_true_iff

/-- R160: the rows stand by rising first byte, so no two start with the same one. -/
theorem utf8Table_sorted : utf8Table.Pairwise fun row row' => row.1.2 < row'.1.1 := by
  decide

/-- In such a table a search by first byte finds the one row that the byte starts. -/
theorem find?_inRange_of_mem {rows : List (ByteRange × List ByteRange)} {row : ByteRange × List ByteRange} {b : Byte}
    (hsorted : rows.Pairwise fun row row' => row.1.2 < row'.1.1) (hmem : row ∈ rows) (hb : inRange b row.1 = true) :
    (rows.find? fun row => inRange b row.1) = some row := by
  induction rows with
  | nil => cases hmem
  | cons first rows ih =>
    obtain ⟨hfirst, hrest⟩ := List.pairwise_cons.mp hsorted
    obtain rfl | hmem := List.mem_cons.mp hmem
    · exact List.find?_cons_of_pos hb
    · have hskip : ¬ inRange b first.1 = true := by
        have hlt := hfirst row hmem
        rw [inRange_iff] at hb ⊢
        exact fun hin => BitVec.not_le.mpr hlt (BitVec.le_trans hb.1 hin.2)
      rw [List.find?_cons_of_neg (p := fun row : ByteRange × List ByteRange => inRange b row.1) hskip]
      exact ih hrest hmem

/-- R160: a byte starts the row whose tail the check then owes. -/
theorem utf8Tail_eq_some_iff (b : Byte) (owed : List ByteRange) :
    utf8Tail b = some owed ↔ ∃ row ∈ utf8Table, (row.1.1 ≤ b ∧ b ≤ row.1.2) ∧ row.2 = owed := by
  rw [utf8Tail, utf8Rows_eq_utf8Table, Option.map_eq_some_iff]
  constructor
  · rintro ⟨row, hfind, howed⟩
    have hb := List.find?_some hfind
    exact ⟨row, List.mem_of_find?_eq_some hfind, (inRange_iff ..).mp hb, howed⟩
  · rintro ⟨row, hmem, hb, howed⟩
    exact ⟨row, find?_inRange_of_mem utf8Table_sorted hmem ((inRange_iff ..).mpr hb), howed⟩

/-- The sequence starts with one byte for each range that is owed, and is well formed after them. -/
def PaysThenWellFormed (owed : List ByteRange) (s : List Byte) : Prop :=
  ∃ tail rest, s = tail ++ rest ∧ List.Forall₂ (fun x r => r.1 ≤ x ∧ x ≤ r.2) tail owed ∧ WellFormedUtf8 rest

theorem paysThenWellFormed_nil_iff (s : List Byte) : PaysThenWellFormed [] s ↔ WellFormedUtf8 s := by
  constructor
  · rintro ⟨tail, rest, rfl, htail, hrest⟩
    cases htail
    exact hrest
  · exact fun h => ⟨[], s, rfl, .nil, h⟩

theorem not_paysThenWellFormed_cons_nil (r : ByteRange) (owed : List ByteRange) :
    ¬ PaysThenWellFormed (r :: owed) [] := by
  rintro ⟨tail, rest, hs, htail, -⟩
  cases htail
  cases hs

theorem paysThenWellFormed_cons_cons_iff (r : ByteRange) (owed : List ByteRange) (b : Byte) (s : List Byte) :
    PaysThenWellFormed (r :: owed) (b :: s) ↔ (r.1 ≤ b ∧ b ≤ r.2) ∧ PaysThenWellFormed owed s := by
  constructor
  · rintro ⟨tail, rest, hs, htail, hrest⟩
    cases htail with
    | cons hb htail =>
      cases hs
      exact ⟨hb, _, rest, rfl, htail, hrest⟩
  · rintro ⟨hb, tail, rest, rfl, htail, hrest⟩
    exact ⟨b :: tail, rest, rfl, .cons hb htail, hrest⟩

theorem wellFormedUtf8_nil : WellFormedUtf8 [] := ⟨[], rfl, by simp⟩

/-- R160: the first code-unit sequence of a well-formed one, byte 1 and then the bytes after it. -/
theorem wellFormedUtf8_cons_iff (b : Byte) (s : List Byte) :
    WellFormedUtf8 (b :: s) ↔ ∃ row ∈ utf8Table, (row.1.1 ≤ b ∧ b ≤ row.1.2) ∧ PaysThenWellFormed row.2 s := by
  constructor
  · rintro ⟨parts, hs, hparts⟩
    cases parts with
    | nil => cases hs
    | cons part parts =>
      obtain ⟨⟨row, hrow, hmatch⟩, hlater⟩ := List.forall_mem_cons.mp hparts
      cases part with
      | nil => exact hmatch.elim
      | cons lead tail =>
        cases hs
        obtain ⟨hlead, htail⟩ := hmatch
        exact ⟨row, hrow, hlead, tail, parts.flatten, rfl, htail, parts, rfl, hlater⟩
  · rintro ⟨row, hrow, hlead, tail, rest, rfl, htail, parts, rfl, hparts⟩
    exact ⟨(b :: tail) :: parts, rfl, List.forall_mem_cons.mpr ⟨⟨row, hrow, hlead, htail⟩, hparts⟩⟩

/-- Between two code-unit sequences the scan goes on with what the next byte's row owes. -/
theorem utf8Scan_nil_cons_iff (b : Byte) (s : List Byte) :
    utf8Scan [] (b :: s) = true ↔ ∃ owed, utf8Tail b = some owed ∧ utf8Scan owed s = true := by
  rw [utf8Scan]
  cases utf8Tail b <;> simp

/-- R160: what the scan accepts in the middle of a code-unit sequence. -/
theorem utf8Scan_iff (owed : List ByteRange) (s : List Byte) :
    utf8Scan owed s = true ↔ PaysThenWellFormed owed s := by
  induction s generalizing owed with
  | nil =>
    cases owed with
    | nil => exact iff_of_true rfl ((paysThenWellFormed_nil_iff []).mpr wellFormedUtf8_nil)
    | cons r owed => exact iff_of_false Bool.false_ne_true (not_paysThenWellFormed_cons_nil r owed)
  | cons b s ih =>
    cases owed with
    | nil =>
      rw [utf8Scan_nil_cons_iff, paysThenWellFormed_nil_iff, wellFormedUtf8_cons_iff]
      simp only [utf8Tail_eq_some_iff, ih]
      constructor
      · rintro ⟨_, ⟨row, hrow, hlead, rfl⟩, htail⟩
        exact ⟨row, hrow, hlead, htail⟩
      · rintro ⟨row, hrow, hlead, htail⟩
        exact ⟨row.2, ⟨row, hrow, hlead, rfl⟩, htail⟩
    | cons r owed =>
      rw [utf8Scan, Bool.and_eq_true, inRange_iff, ih, paysThenWellFormed_cons_cons_iff]

end Sys2Proof.Safety

namespace Sys2Proof.Machine

open Sys2Proof.Safety

theorem utf8Ok_iff (s : List Byte) : utf8Ok s = true ↔ WellFormedUtf8 s :=
  (utf8Scan_iff [] s).trans (paysThenWellFormed_nil_iff s)

theorem execChunkText_noChunk {s : State} (h : s.chValid = false) : execChunkText s = .next (s.raise .noChunk) := by
  simp [execChunkText, h]

theorem execChunkText_notUtf8 {s : State} (h : s.chValid = true) (hp : utf8Ok s.payload = false) :
    execChunkText s = .next (s.raise .notUtf8) := by
  simp [execChunkText, h, hp]

theorem execChunkText_utf8 {s : State} (h : s.chValid = true) (hp : utf8Ok s.payload = true) :
    execChunkText s = .next s.succeed := by
  simp [execChunkText, h, hp]

end Sys2Proof.Machine

open Sys2Proof Sys2Proof.Machine Sys2Proof.Safety

/-- Settles O39: the scan owes, after each first byte, the rest of the one row that the byte starts. -/
theorem utf8CheckMatchesTheTable : Obligations.Utf8CheckMatchesTheTable := utf8Ok_iff

/-- Settles O40: one clause for each check, in order; the check of the payload is O39's. -/
theorem chunkTextResult : Obligations.ChunkTextResult := by
  refine ⟨decode_encode .chunkText, fun s => ?_⟩
  rw [← State.payload_eq_bytesFrom, ← utf8Ok_iff, Bool.not_eq_true]
  exact ⟨execChunkText_noChunk, execChunkText_notUtf8, execChunkText_utf8⟩

end

section
/-! PROOFS. The codes each command can end in with the index that goes with each (R180, R182), and the idle step (R193,
R201). -/

namespace Sys2Proof.Machine

/-- The conditions each command can report, in the order of its checks (R180). -/
def reportable : Instr → List ErrorKind
  | .nop | .crcInit => []
  | .crcUpdate => [.outOfBounds]
  | .tcLoad => [.badTypeByte]
  | .tcLoadStr => [.outOfBounds, .wrongTypeLength, .badTypeByte]
  | .chunkNew => [.noType, .outOfBounds]
  | .chunkEncode => [.noChunk, .outOfBounds]
  | .chunkDecode => [.outOfBounds, .incomplete, .invalidLength, .badTypeByte, .checksumMismatch]
  | .chunkText => [.noChunk, .notUtf8]

/-- The end of a command that reports no condition but those listed: `CommandEnds` with the condition and the index
kept. Only BAD_TYPE_BYTE comes with an index (R182). -/
inductive ReportsOnly (kinds : List ErrorKind) : State → Prop
  | success (u : State) : ReportsOnly kinds u.succeed
  | raise (s : State) {e : ErrorKind} (he : e ∈ kinds) : ReportsOnly kinds (s.raise e)
  | badTypeByte (s : State) (k : BitVec 2) (he : .badTypeByte ∈ kinds) : ReportsOnly kinds (s.raiseAt .badTypeByte k)

theorem ReportsOnly.err_mem {kinds : List ErrorKind} {t : State} (h : ReportsOnly kinds t) :
    t.err ∈ 0 :: kinds.map ErrorKind.code := by
  cases h with
  | success u => exact List.mem_cons_self
  | raise s he => exact List.mem_cons_of_mem _ (List.mem_map_of_mem he)
  | badTypeByte s k he => exact List.mem_cons_of_mem _ (List.mem_map_of_mem he)

theorem ReportsOnly.errIdx_eq_zero {kinds : List ErrorKind} {t : State} (h : ReportsOnly kinds t) (hne : t.err ≠ 1) :
    t.errIdx = 0 := by
  cases h with
  | success u => rfl
  | raise s he => rfl
  | badTypeByte s k he => exact absurd rfl hne

/-- R180: each path of each command ends in success or in a condition of its list. -/
theorem exec_reportsOnly {i : Instr} {s t : State} (h : exec i s = .next t) : ReportsOnly (reportable i) t := by
  cases i with
  | nop => rw [execNop_cases h]; exact .success s
  | tcLoad =>
    obtain ⟨k, -, rfl⟩ | ⟨-, rfl⟩ := execTcLoad_cases h
    exacts [.badTypeByte s k (by decide), .success _]
  | tcLoadStr =>
    obtain ⟨-, rfl⟩ | ⟨-, -, rfl⟩ | ⟨-, -, k, -, rfl⟩ | ⟨-, -, -, rfl⟩ := execTcLoadStr_cases h
    exacts [.raise s (by decide), .raise s (by decide), .badTypeByte s k (by decide), .success _]
  | chunkNew =>
    obtain ⟨-, rfl⟩ | ⟨-, -, rfl⟩ | ⟨-, -, rfl⟩ := execChunkNew_cases h
    exacts [.raise s (by decide), .raise s (by decide), .success _]
  | chunkEncode =>
    obtain ⟨-, rfl⟩ | ⟨-, -, rfl⟩ | ⟨-, -, rfl⟩ := execChunkEncode_cases h
    exacts [.raise s (by decide), .raise s (by decide), .success _]
  | chunkDecode =>
    obtain ⟨-, rfl⟩ | ⟨-, -, rfl⟩ | ⟨-, -, -, rfl⟩ | ⟨-, -, k, -, rfl⟩ | ⟨-, -, -, -, rfl⟩ | ⟨-, -, -, -, rfl⟩ :=
      execChunkDecode_cases h
    exacts [.raise s (by decide), .raise s (by decide), .raise s (by decide), .badTypeByte s k (by decide),
      .raise s (by decide), .success _]
  | chunkText =>
    obtain ⟨-, rfl⟩ | ⟨-, -, rfl⟩ | ⟨-, -, rfl⟩ := execChunkText_cases h
    exacts [.raise s (by decide), .raise s (by decide), .success _]
  | crcInit => rw [execCrcInit_cases h]; exact .success _
  | crcUpdate =>
    obtain ⟨-, rfl⟩ | ⟨-, rfl⟩ := execCrcUpdate_cases h
    exacts [.raise s (by decide), .success _]

end Sys2Proof.Machine

open Sys2Proof Sys2Proof.Machine Sys2Proof.Safety

/-- Settles O42: the clause of each command is its list of conditions, read as codes. -/
theorem errorCodesOfEachCommand : Obligations.ErrorCodesOfEachCommand := by
  intro i s t h
  have hends := exec_reportsOnly h
  have hcode := hends.err_mem
  refine ⟨hends.errIdx_eq_zero, ?_, ?_, ?_, ?_, ?_, ?_, ?_, ?_, ?_⟩ <;> rintro rfl <;>
    simpa [reportable, ErrorKind.code] using hcode

/-- Settles O5: `step` takes an action only when there is one to come. -/
theorem idleCoreHoldsItsState : Obligations.IdleCoreHoldsItsState := by
  intro s hidle
  rw [step, hidle]

end

section
/-! PROOFS. The values of registers and views at reset, as a host action and as the state in which the core begins
(R200). -/

namespace Sys2Proof.Machine

/-- R27: with no error and no valid bit STATUS shows nothing. -/
theorem State.status_of_cleared {s : State} (herr : s.err = 0) (hidx : s.errIdx = 0) (htc : s.tcValid = false)
    (hch : s.chValid = false) : s.status = 0 := by
  simp [State.status, herr, hidx, htc, hch]

/-- R41: the final XOR takes the initial register value to 0. -/
theorem State.crcValue_of_initial {s : State} (h : s.crcState = crcInitial) : s.crcValue = 0 := by
  rw [State.crcValue, h]
  decide

/-- R200's table: each register and bit that has a reset value, then the four views. -/
def State.HasResetValues (s : State) : Prop :=
  s.src = 0 ∧ s.slen = 0 ∧ s.dst = 0 ∧ s.typeIn = 0 ∧ s.typeReg = 0 ∧ s.tcValid = false ∧
    s.chType = 0 ∧ s.chAddr = 0 ∧ s.chLen = 0 ∧ s.chCrc = 0 ∧ s.chValid = false ∧ s.outLen = 0 ∧
    s.crcState = 0xFFFFFFFF ∧ s.err = 0 ∧ s.errIdx = 0 ∧
    s.status = 0 ∧ s.tflags = 0 ∧ s.cflags = 0 ∧ s.crcValue = 0

/-- R200 for the core that a Reset leaves: the views follow from the registers. -/
theorem State.hasResetValues_resetCore (s : State) : s.resetCore.HasResetValues := by
  have hstatus : s.resetCore.status = 0 := State.status_of_cleared s.resetCore_err s.resetCore_errIdx
    s.resetCore_tcValid s.resetCore_chValid
  have htflags : s.resetCore.tflags = 0 := State.tflags_of_invalid s.resetCore_tcValid
  have hcflags : s.resetCore.cflags = 0 := State.cflags_of_invalid s.resetCore_chValid
  have hcrc : s.resetCore.crcValue = 0 := State.crcValue_of_initial s.resetCore_crcState
  simp [State.HasResetValues, hstatus, htflags, hcflags, hcrc]

/-- The core begins as a Reset leaves it: neither BUF_SIZE, the draw nor the host's side is among R200's values. -/
theorem State.hasResetValues_reset : State.reset.HasResetValues :=
  State.reset.hasResetValues_resetCore

end Sys2Proof.Machine

open Sys2Proof Sys2Proof.Machine

/-- Settles O11: the action answers `resetCore`, and the core begins with the values that this has. -/
theorem resetGivesTheResetValues : Obligations.ResetGivesTheResetValues :=
  ⟨fun s rest hs => ⟨(s.issue rest).resetCore, step_cons hs, (s.issue rest).hasResetValues_resetCore⟩,
    State.hasResetValues_reset⟩

end
